-- ==== Sys2Proof/Word.lean ====
section
/-! DEFINITION. The three bit-vector types of the controller: every datum is a byte, a 4-bit pixel code or the level
of one line (R5, R22, R56, R88). Sizes, indices and coordinates are mathematical integers (R6). -/

namespace Sys2Proof

/-- One byte, bit 7 the most significant (R5). -/
abbrev Byte := BitVec 8

/-- A 4-bit bichromatic pixel code (R88). -/
abbrev Nibble := BitVec 4

/-- The level of one line: 1 is high, 0 is low (R22, R24). -/
abbrev Level := BitVec 1

end Sys2Proof
end

