-- ==== Sys2Proof/Config.lean ====
section
/-! DEFINITION. The configuration record CFG (R4, R21), its fixed members, the form of the environment's answers (R114)
and the free values: opaque constants, so that no proof can see what the environment answers (R10) or which level
chip-select has after a failed write (R110, D11). -/

namespace Sys2Proof

/-- The two panel driver variants (R160). -/
inductive Variant where
  | mono
  | bichro
deriving DecidableEq, Repr

/-- CFG: written once at construction, read-only afterwards (R4, R21). Every statement of this model quantifies over it. -/
structure Cfg where
  /-- `W`, at least 1 (D30). -/
  w : Nat
  /-- `H`, at least 1 (D30). -/
  h : Nat
  /-- `VARIANT` (R160). -/
  variant : Variant
  /-- `CHUNK`, at least 1 (D5). -/
  chunk : Nat
  /-- `CS_ASSERT_LEVEL` (D2). -/
  csAssertLevel : Level
  /-- `BUSY_IDLE_LEVEL` (D3, R271). -/
  busyIdleLevel : Level
  /-- `POLL_BUDGET`: none (the original, unbounded) or a count of poll iterations, at least 1 (D4). -/
  pollBudget : Option Nat
  /-- `ELIDE_EMPTY_DATA` (D7). -/
  elideEmptyData : Bool
  /-- `INIT_SEQ`: the configuration table, in sending order (R132, D24). -/
  initSeq : List (Byte × List Byte)
  opPowerSetting : Byte
  opPanelSetting : Byte
  opPllControl : Byte
  opVcomDataInterval : Byte
  opBoosterSoftStart : Byte
  opTconResolution : Byte
  /-- `OP_DATA_START`, the source's opcode A. -/
  opDataStart : Byte
  /-- `OP_DATA_START_2`, the source's opcode B. -/
  opDataStart2 : Byte
  opRefresh : Byte
  opPowerOff : Byte
  opDeepSleep : Byte
  opGetStatus : Byte
  plRefresh : List Byte
  plPowerOff : List Byte
  plDeepSleep : List Byte
  plGetStatus : List Byte
  /-- `MONO_CLEAR_SEQ(true)`: (opcode, fill byte) pairs (R162, D16). -/
  monoClearBlack : List (Byte × Byte)
  /-- `MONO_CLEAR_SEQ(false)`. -/
  monoClearWhite : List (Byte × Byte)
  /-- `BICHRO_CLEAR_LEN`: `W*H/2` or `W*H*4` (R165, D15). -/
  bichroClearLen : Nat
  /-- `BLACK_INK_BIT`: the bit value that means black ink in the black plane (R55, D14). -/
  blackInkBit : Bool
deriving DecidableEq, Repr

/-- `DC_COMMAND_LEVEL` (R4). -/
def Config.dcCommandLevel : Level := 0#1
/-- `DC_DATA_LEVEL` (R4). -/
def Config.dcDataLevel : Level := 1#1
/-- `T_RST_HIGH1` in ms (R4, R131). -/
def Config.tRstHigh1 : Nat := 200
/-- `T_RST_LOW` in ms (R4, R131). -/
def Config.tRstLow : Nat := 2
/-- `T_RST_HIGH2` in ms (R4, R131). -/
def Config.tRstHigh2 : Nat := 200
/-- `T_POLL` in ms (R4, R133). -/
def Config.tPoll : Nat := 20
/-- `T_SETTLE` in ms (R4, R133). -/
def Config.tSettle : Nat := 100
/-- `T_REFRESH` in ms (R4, R134). -/
def Config.tRefresh : Nat := 100

/-- What the environment decides about one `WR`: take everything, take at most `n` bytes, or fail (R114, D28). -/
inductive WrDraw where
  | full
  | count (n : Nat)
  | fail
deriving DecidableEq, Repr, Inhabited

/-- The answer of one `WR`: `Fail`, or the number of bytes taken (R114). -/
inductive WrAnswer where
  | fail
  | count (r : Nat)
deriving DecidableEq, Repr, Inhabited

/-- FREE VALUE (log 3): the environment's decision about the `n`-th `WR`, where State's queue does not hold it. -/
opaque Config.wrDraw : Nat → WrDraw

/-- FREE VALUE (log 3): the level the `n`-th busy sample reads, where State's queue does not hold it (R24, I7). -/
opaque Config.busyLevel : Nat → Level

/-- FREE VALUE (log 4): the level of chip-select after the `n`-th TransportError (R110, R227, D11, I8). -/
opaque Config.csAfterFailure : Nat → Level

/-- The spec's own example configuration `CFG_EX` (95_test_vectors.md section 0), the CFG of State.reset.
DESIGN CHOICE (log 1): the source gives no opcode, payload, size or variant; no rule rests on these values. -/
def exampleCfg : Cfg where
  w := 16
  h := 2
  variant := .mono
  chunk := 128
  csAssertLevel := 0#1
  busyIdleLevel := 1#1
  pollBudget := none
  elideEmptyData := false
  initSeq := [(0x01#8, [0xA1#8, 0xA2#8]), (0x00#8, [0xB1#8]), (0x30#8, [0xC1#8]), (0x50#8, [0xD1#8]),
    (0x06#8, [0xE1#8, 0xE2#8, 0xE3#8]), (0x61#8, [0xF1#8, 0xF2#8, 0xF3#8, 0xF4#8])]
  opPowerSetting := 0x01#8
  opPanelSetting := 0x00#8
  opPllControl := 0x30#8
  opVcomDataInterval := 0x50#8
  opBoosterSoftStart := 0x06#8
  opTconResolution := 0x61#8
  opDataStart := 0x10#8
  opDataStart2 := 0x13#8
  opRefresh := 0x12#8
  opPowerOff := 0x02#8
  opDeepSleep := 0x07#8
  opGetStatus := 0x71#8
  plRefresh := []
  plPowerOff := []
  plDeepSleep := []
  plGetStatus := []
  monoClearBlack := [(0x10#8, 0x00#8)]
  monoClearWhite := [(0x10#8, 0xFF#8), (0x13#8, 0xFF#8)]
  bichroClearLen := 16
  blackInkBit := false

end Sys2Proof
end

