-- ==== Sys2Proof/Syntax.lean ====
section
/-! DEFINITION. The instructions: one constructor per row of spec/opcode_table.json, their operand forms (R82) and the
encoded forms a program holds (R80: host operations, wire commands, pixel encodings). -/

namespace Sys2Proof

/-- A byte-list operand (R82): the list itself, or a host-owned buffer handed in by reference (R10, R66, R269; log 11). -/
inductive Buf where
  | lit (bytes : List Byte)
  | ref (id : Nat)
deriving DecidableEq, Repr

/-- The pixel function operand `px` (R82, R190) as plain data: `rows[y][x]`, and `rest` wherever no cell is listed;
`none` means not defined there (log 13). -/
structure PixelMap where
  rows : List (List (Option Bool))
  rest : Option Bool
deriving DecidableEq, Repr

/-- The three pixel codes that are ever produced (R88). -/
inductive PixelCode where
  | black
  | white
  | color
deriving DecidableEq, Repr

/-- One constructor per row of spec/opcode_table.json. -/
inductive Instr where
  -- Bus Transport (R110 to R113)
  | transfer (bytes : Buf)
  | sendCommand (opcode : Byte)
  | sendData (bytes : Buf)
  | send (opcode : Byte) (payload : Buf)
  -- Panel State Machine (R131, R132, R133, R137)
  | reset
  | init
  | waitUntilIdle
  | sleep
  -- Panel Driver Variants (R161 to R165)
  | draw2 (blackPlane colorPlane : Buf)
  | monoDraw (buffer : Buf)
  | bichroDraw (buffer : Buf)
  | monoClear (black : Bool)
  | bichroClear (black : Bool)
  -- Bitplane Packer and raster operations (R190, R191, R192, R194)
  | packMono (px : PixelMap)
  | getPixel (buf : Buf) (x y : Int)
  | setPixel (buf : Buf) (x y : Int) (v : Bool)
  | packBichro (blackPlane colorPlane : Buf)
  -- Wire commands (R166 to R177)
  | powerSetting (payload : List Byte)
  | panelSetting (payload : List Byte)
  | pllControl (payload : List Byte)
  | vcomDataInterval (payload : List Byte)
  | boosterSoftStart (payload : List Byte)
  | tconResolution (payload : List Byte)
  | dataStart (payload : List Byte)
  | dataStart2 (payload : List Byte)
  | displayRefresh (payload : List Byte)
  | powerOff (payload : List Byte)
  | deepSleep (payload : List Byte)
  | getStatus (payload : List Byte)
  -- Pixel encodings (R87, R88, R89)
  | pixelBlack
  | pixelWhite
  | pixelColor
  | frameByte (left right : PixelCode)
  | monoByte (a b c d e f g h : Bool)
deriving DecidableEq, Repr

/-- An operand of a host operation, not packed into bits (R81, R82). -/
inductive Operand where
  | byte (b : Byte)
  | buf (b : Buf)
  | int (n : Int)
  | bit (b : Bool)
  | pixels (px : PixelMap)
deriving DecidableEq, Repr

/-- The five formats of spec/opcode_table.json (R80, R81, R85, R87 to R89). -/
inductive Format where
  | hostop
  | wirecmd
  | nibble
  | framebyte
  | monobyte
deriving DecidableEq, Repr

/-- One encoded instruction. The format says on which channel the bits come: the three encodings of R80 share bit
patterns and are never mixed in one stream (log 8). -/
inductive Encoded where
  | hostop (opsel : Byte) (operands : List Operand)
  | wirecmd (opcode : Byte) (payload : List Byte)
  | nibble (bits : Nibble)
  | framebyte (bits : Byte)
  | monobyte (bits : Byte)
deriving DecidableEq, Repr

/-- The format an encoded instruction is in. -/
def Encoded.format : Encoded → Format
  | .hostop _ _ => .hostop
  | .wirecmd _ _ => .wirecmd
  | .nibble _ => .nibble
  | .framebyte _ => .framebyte
  | .monobyte _ => .monobyte

/-- Why an encoded form is no instruction. -/
inductive DecodeError where
  /-- A selector byte not listed in R81 (R91, I22). -/
  | unlistedSelector (opsel : Byte)
  /-- The selector is listed and its operands are not the ones R81 lists for it. -/
  | wrongOperands (opsel : Byte)
  /-- An opcode byte that is no `CFG.OP_*` (R86). -/
  | unlistedOpcode (opcode : Byte)
  /-- A nibble other than 0x0, 0x3, 0x4 (R90). -/
  | unusedNibble (bits : Nibble)
  /-- A frame byte with a nibble other than 0x0, 0x3, 0x4 (R90). -/
  | unusedFrameByte (bits : Byte)
deriving DecidableEq, Repr

end Sys2Proof
end

