-- ==== Sys2Proof/Machine/Raster.lean ====
section
/-! DEFINITION. Geometry and addressing of the raster buffers and of the frame: derived quantities of CFG (R4), the two
index formulas (R51, R52, R198), the pixel masks (R5, R87), the pixel function operand (R82), pixel codes and frame
bytes (R88, R89, R193). -/

namespace Sys2Proof

/-- `STRIDE = ceil(W/8)` (R4). -/
def Cfg.stride (c : Cfg) : Nat := (c.w + 7) / 8

/-- `PLANE_LEN = STRIDE * H` (R4). -/
def Cfg.planeLen (c : Cfg) : Nat := c.stride * c.h

/-- `FRAME_LEN = 4 * PLANE_LEN` (R4, C6). -/
def Cfg.frameLen (c : Cfg) : Nat := 4 * c.planeLen

/-- `ZERO_PLANE` (R29). -/
def Cfg.zeroPlane (c : Cfg) : List Byte := List.replicate c.planeLen 0x00#8

/-- `MONO_CLEAR_SEQ(black)` (R162). -/
def Cfg.monoClearSeq (c : Cfg) (black : Bool) : List (Byte × Byte) := if black then c.monoClearBlack else c.monoClearWhite

/-- The bit of a byte that holds column `x`: `0x80 >> (x % 8)` (R5, R51). -/
def pixelMask (x : Nat) : Byte := 0x80#8 >>> (x % 8)

/-- Byte index of pixel `(x, y)` in a MonochromeBitmap: `x/8 + STRIDE*y` (R51). -/
def Cfg.rasterIndex (c : Cfg) (x y : Nat) : Nat := x / 8 + c.stride * y

/-- Byte index of pixel `(x, y)` in a Surface: `x/8 + (W/8)*y` (R52). -/
def Cfg.surfaceIndex (c : Cfg) (x y : Nat) : Nat := x / 8 + c.w / 8 * y

/-- Is the pixel of column `x` set in its byte (R51, R191)? -/
def pixelSet (b : Byte) (x : Nat) : Bool := b &&& pixelMask x != 0#8

/-- The byte with the pixel of column `x` set or cleared (R192). -/
def putPixel (b : Byte) (x : Nat) (v : Bool) : Byte := if v then b ||| pixelMask x else b &&& (0xFF#8 - pixelMask x)

/-- The value of the pixel function at `(x, y)`, if it is defined there (R82, R190). -/
def PixelMap.at? (px : PixelMap) (x y : Nat) : Option Bool :=
  match px.rows[y]? with
  | none => px.rest
  | some row =>
    match row[x]? with
    | none => px.rest
    | some cell => cell

/-- The value of the pixel function at `(x, y)`; where it is not defined the operation is refused before it is read. -/
def PixelMap.bit (px : PixelMap) (x y : Nat) : Bool := (px.at? x y).getD false

/-- The pixel function is defined on the whole domain `0 ≤ x < 8*STRIDE`, `0 ≤ y < H` (R82, R190, R265). -/
def PixelMap.definedOn (c : Cfg) (px : PixelMap) : Bool :=
  (List.range c.h).all fun y => (List.range (8 * c.stride)).all fun x => (px.at? x y).isSome

/-- The 4-bit value of a pixel code (R88). -/
def PixelCode.nibble : PixelCode → Nibble
  | .black => 0x0#4
  | .white => 0x3#4
  | .color => 0x4#4

/-- `CODE(b, c)`: colour over black over white (R193). -/
def Cfg.code (cfg : Cfg) (b c : Bool) : PixelCode :=
  if c then .color else if b = cfg.blackInkBit then .black else .white

/-- `(leftCode << 4) | rightCode` (R89). -/
def frameByteOf (left right : PixelCode) : Byte :=
  (left.nibble.setWidth 8 <<< 4) ||| right.nibble.setWidth 8

/-- Eight pixels in one byte, pixel `k` under the mask `0x80 >> k` (R87, R190). -/
def packByte (f : Nat → Bool) : Byte :=
  (List.range 8).foldl (fun v k => if f k then v ||| pixelMask k else v) 0x00#8

end Sys2Proof
end

