-- ==== Sys2Proof/Machine/State.lean ====
section
/-! DEFINITION. The state of the controller (R20), of the host and of the environment's settled answers (R10), as plain
data; the events of the trace (R8), the errors (R220), the pseudocode lines of a running operation (R7, R27), and the
state after construction (R31). -/

namespace Sys2Proof.Machine

/-- The protocol state `ST` (R23). -/
inductive St where
  | unpowered
  | reset
  | initializing
  | ready
  | sleeping
  | fault
deriving DecidableEq, Repr

/-- The event alphabet of the trace (R8). -/
inductive Event where
  | rst (l : Level)
  | dc (l : Level)
  | csAssert
  | csDeassert
  | wr (bytes : List Byte) (r : WrAnswer)
  | busy (l : Level)
  | dly (ms : Nat)
deriving DecidableEq, Repr

/-- The errors an operation returns, with the info R220 gives each. -/
inductive Err where
  | transport (off k : Nat) (r : WrAnswer)
  | invalidBufferSize (got wanted : Nat)
  | busyTimeout (polls : Nat)
  | invalidState (st : St)
  | outOfRange (x y : Int)
deriving DecidableEq, Repr

/-- The result of an operation that ended with `Ok` (R9). -/
inductive Value where
  | unit
  | bit (b : Bool)
  | bytes (l : List Byte)
  | byte (b : Byte)
  | code (n : Nibble)
deriving DecidableEq, Repr

/-- What an ended operation returns to the host (R9, R227). -/
inductive Ret where
  | ok (v : Value)
  | error (e : Err)
deriving DecidableEq, Repr

/-- Which operation is running (R27); DRAW and CLEAR of either variant are one name each, as in R34. -/
inductive OpName where
  | transfer
  | sendCommand
  | sendData
  | send
  | reset
  | init
  | waitUntilIdle
  | draw
  | draw2
  | clear
  | sleep
  | packMono
  | getPixel
  | setPixel
  | packBichro
  | pixelCode
deriving DecidableEq, Repr

/-- One line of an operation's bus phase, loops with a bound known at the start unrolled: the primitives of R7 with
their loop variables (log 6). -/
inductive Line where
  /-- `set RST(l)`. -/
  | setRst (l : Level)
  /-- `set DC(l)`. -/
  | setDc (l : Level)
  /-- `set CS(assert)`. -/
  | csAssert
  /-- `set CS(deassert)`. -/
  | csDeassert
  /-- `r <- WR(chunk)`, the chunk at offset `off` of its transfer, and the test of `r` after it (R110). -/
  | wr (off : Nat) (chunk : List Byte)
  /-- `delay(ms)`. -/
  | delay (ms : Nat)
  /-- `POLLS <- 0` (R133). -/
  | pollsZero
  /-- `l <- sample BUSY` with the count, the idle test and the budget test after it (R133). -/
  | sample
  /-- `ST <- st`. -/
  | setSt (st : St)
deriving DecidableEq, Repr

/-- The sequencer position `SEQ` (R27): idle between operations, else the running operation and its lines still to do. -/
inductive Seq where
  | idle
  | running (op : OpName) (lines : List Line)
deriving DecidableEq, Repr

/-- What the host does with the rest of its program after an error (R92). -/
inductive OnError where
  | stop
  | continue
deriving DecidableEq, Repr

/-- The host's byte buffers: buffer number and content, numbers rising, no empty list (log 11). -/
abbrev Buffers := List (Nat × List Byte)

/-- The machine's faults. There is none: every error of this hardware is returned to the host and the controller goes
on (R220, R227), and the one hang of R238 is an unbounded run of steps. -/
inductive Fault where
deriving DecidableEq, Repr

/-- Why an instruction has no meaning where it was started. Each is safe: nothing is proved about such a start. -/
inductive Refusal where
  /-- Raised by `exec` for an instruction with no meaning yet; safe. -/
  | notModelled (mnemonic : String)
  /-- Raised by `step` on an encoded form that is no instruction (R90, R91, I22, R86); safe. -/
  | undecodable (e : DecodeError)
  /-- Raised by every instruction started while an operation runs (R264, I21); safe. -/
  | reentrant
  /-- Raised by a bus operation under a configuration with `CHUNK = 0`, which D5 excludes; safe (log 16). -/
  | zeroChunk
  /-- Raised by DRAW2 on the Mono variant (R96), and by a DRAW or CLEAR row of the variant that is not configured (R161, R162, R164, R165); safe. -/
  | wrongVariant
  /-- Raised by PACK_MONO on a pixel function not defined on its whole domain (R190, D19); safe. -/
  | pixelUndefined
  /-- Raised by SET_PIXEL where 8 does not divide `W` (R52, D17); safe. -/
  | surfaceWidth
  /-- Raised by SET_PIXEL where the pixel's byte lies outside the buffer (R198; log 12); safe. -/
  | indexOutsideBuffer
deriving DecidableEq, Repr

/-- The complete state: the controller's (R20), the trace (R33), the host's and the environment's (R10). -/
structure State where
  /-- CFG (R21). -/
  cfg : Cfg
  /-- `ST` (R23). -/
  st : St
  /-- `RST_L` (R22). -/
  rstL : Level
  /-- `CS_L` (R22). -/
  csL : Level
  /-- `DC_L` (R22). -/
  dcL : Level
  /-- `SEQ` (R27). -/
  seq : Seq
  /-- `POLLS` (R27, R133). -/
  polls : Nat
  /-- The trace, oldest event first (R8, R33). -/
  trace : List Event
  /-- The host's operations still to start, next first (R92). -/
  program : List Encoded
  /-- What the host does after an error (R92). -/
  onError : OnError
  /-- The host's buffers (R50, R269). -/
  bufs : Buffers
  /-- What the ended operations returned, oldest first (R9). -/
  returns : List Ret
  /-- Answers to `WR` the environment has settled on, next first (R10, R114). -/
  wrQueue : List WrDraw
  /-- How many `WR` have been answered. -/
  wrCount : Nat
  /-- Busy levels the environment has settled on, next first (R10, R24). -/
  busyQueue : List Level
  /-- How many busy samples have been answered. -/
  busyCount : Nat
  /-- How many unspecified chip-select levels have been drawn (R110). -/
  free : Nat
deriving DecidableEq, Repr

/-- The state right after construction with `cfg` (R31, R260). The three latches are unspecified there; they are 0 here,
DESIGN CHOICE (log 2). -/
def State.construct (cfg : Cfg) : State where
  cfg := cfg
  st := .unpowered
  rstL := 0#1
  csL := 0#1
  dcL := 0#1
  seq := .idle
  polls := 0
  trace := []
  program := []
  onError := .stop
  bufs := []
  returns := []
  wrQueue := []
  wrCount := 0
  busyQueue := []
  busyCount := 0
  free := 0

/-- The machine right after reset: construction with the spec's example configuration (log 1). -/
def State.reset : State := State.construct exampleCfg

end Sys2Proof.Machine
end

