-- ==== Sys2Proof/Machine/Flags.lean ====
section
/-! DEFINITION. The controller has no flags (R28). What stands in their place are the tests its pseudocode makes, each
once: was a write taken whole (R110), is the sampled level idle and is the poll budget used up (R133), and which errors
and operations lead to `ST = Fault` (R138). -/

namespace Sys2Proof.Machine

/-- The answer the environment's decision gives for a write of `k` bytes: a count is at most `k` (R114). -/
def answerOf (d : WrDraw) (k : Nat) : WrAnswer :=
  match d with
  | .full => .count k
  | .count n => .count (min n k)
  | .fail => .fail

/-- `not (r = Fail or r < k)` for a write of `k` bytes (R110). -/
def takenWhole (k : Nat) (r : WrAnswer) : Bool :=
  match r with
  | .fail => false
  | .count n => decide (k ≤ n)

/-- `l = CFG.BUSY_IDLE_LEVEL` (R133). -/
def isIdleLevel (c : Cfg) (l : Level) : Bool := decide (l = c.busyIdleLevel)

/-- `CFG.POLL_BUDGET = some B and POLLS ≥ B` (R133). -/
def budgetSpent (c : Cfg) (polls : Nat) : Bool :=
  match c.pollBudget with
  | none => false
  | some b => decide (b ≤ polls)

/-- The level that asserts or deasserts chip-select (R22). -/
def deassertLevel (c : Cfg) : Level := 1#1 - c.csAssertLevel

/-- The errors of the bus phase (R138). -/
def busPhase : Err → Bool
  | .transport _ _ _ => true
  | .busyTimeout _ => true
  | .invalidBufferSize _ _ => false
  | .invalidState _ => false
  | .outOfRange _ _ => false

/-- The operations whose bus-phase errors lead to `ST = Fault`: INIT, DRAW, DRAW2, CLEAR, SLEEP (R138). -/
def isPanelOp : OpName → Bool
  | .init | .draw | .draw2 | .clear | .sleep => true
  | .transfer | .sendCommand | .sendData | .send | .reset | .waitUntilIdle => false
  | .packMono | .getPixel | .setPixel | .packBichro | .pixelCode => false

/-- The numeric code of an error (R220, D12). -/
def errorCode : Err → Nat
  | .transport _ _ _ => 1
  | .invalidBufferSize _ _ => 2
  | .busyTimeout _ => 3
  | .invalidState _ => 4
  | .outOfRange _ _ => 5

end Sys2Proof.Machine
end

