-- ==== Sys2Proof/Machine/Operands.lean ====
section
/-! DEFINITION. The host's buffers and the byte-list operand forms: reading a buffer operand and storing one byte of a
host buffer (R50, R59, R66, R82). -/

namespace Sys2Proof.Machine

/-- The content of buffer `id`; a number that is not listed reads as the empty list (log 11). -/
def readBuffers : Buffers → Nat → List Byte
  | [], _ => []
  | (n, bytes) :: rest, id => if n = id then bytes else readBuffers rest id

/-- The buffers with `id` holding `bytes`, numbers kept rising and empty lists not listed (log 11). -/
def writeBuffers : Buffers → Nat → List Byte → Buffers
  | [], id, bytes => if bytes = [] then [] else [(id, bytes)]
  | (n, old) :: rest, id, bytes =>
    if n < id then (n, old) :: writeBuffers rest id bytes
    else if n = id then (if bytes = [] then rest else (id, bytes) :: rest)
    else if bytes = [] then (n, old) :: rest else (id, bytes) :: (n, old) :: rest

/-- Canonical form of the buffers above a number: numbers strictly rising, no empty list. -/
def buffersAbove : Nat → Buffers → Bool
  | _, [] => true
  | lo, (n, bytes) :: rest => decide (lo ≤ n) && !bytes.isEmpty && buffersAbove (n + 1) rest

/-- Canonical form of the buffers (log 11). -/
def buffersWf (b : Buffers) : Bool := buffersAbove 0 b

/-- A byte-list operand's content when the operation starts (R66, R82). -/
def State.bytesOf (s : State) : Buf → List Byte
  | .lit bytes => bytes
  | .ref id => readBuffers s.bufs id

/-- `buf[i]` of host buffer `id` (R59, R198). -/
def State.bufferByte? (s : State) (id i : Nat) : Option Byte := (readBuffers s.bufs id)[i]?

/-- The byte list with byte `i` replaced: `buf[i] <- v` (R7). -/
def storeByte (bytes : List Byte) (i : Nat) (v : Byte) : List Byte := bytes.set i v

/-- A buffer operand's new content, in place where the operand is a host buffer (R192). -/
def State.putBytes (s : State) (b : Buf) (bytes : List Byte) : State :=
  match b with
  | .lit _ => s
  | .ref id => { s with bufs := writeBuffers s.bufs id bytes }

end Sys2Proof.Machine
end

