-- ==== Sys2Proof/Machine/Ops.lean ====
section
/-! DEFINITION. The named operations on the state: driving a line (R22), one `WR` (R114), one busy sample (R24), a delay
(R233), returning to the host and raising an error (R9, R227), doing one pseudocode line (R7, R27), running a list of
lines, and starting an operation (R10, R264). -/

namespace Sys2Proof.Machine

/-- What an instruction answers. -/
abbrev Out := Host.Outcome State Fault Refusal

/-- Append one event to the trace (R8). -/
def State.emit (e : Event) (s : State) : State := { s with trace := s.trace ++ [e] }

/-- `set RST(l)` (R22). -/
def State.setRst (l : Level) (s : State) : State := { s with rstL := l, trace := s.trace ++ [.rst l] }

/-- `set DC(l)` (R22). -/
def State.setDc (l : Level) (s : State) : State := { s with dcL := l, trace := s.trace ++ [.dc l] }

/-- `set CS(assert)` (R22). -/
def State.assertCs (s : State) : State := { s with csL := s.cfg.csAssertLevel, trace := s.trace ++ [.csAssert] }

/-- `set CS(deassert)` (R22). -/
def State.deassertCs (s : State) : State := { s with csL := deassertLevel s.cfg, trace := s.trace ++ [.csDeassert] }

/-- The environment's decision about the `j`-th `WR` from now: from the queue, beyond it a free value (R10; log 3). -/
def State.wrDrawAt (s : State) (j : Nat) : WrDraw := (s.wrQueue[j]?).getD (Config.wrDraw (s.wrCount + j))

/-- The level of the `j`-th busy sample from now: from the queue, beyond it a free value (R24; log 3). -/
def State.busyAt (s : State) (j : Nat) : Level := (s.busyQueue[j]?).getD (Config.busyLevel (s.busyCount + j))

/-- The answer of the next `WR` of `k` bytes (R114). -/
def State.wrAnswer (s : State) (k : Nat) : WrAnswer := answerOf (s.wrDrawAt 0) k

/-- `WR(bytes)`: the event with its answer, and one decision of the environment used up (R114). -/
def State.wr (bytes : List Byte) (s : State) : State :=
  { s with wrQueue := s.wrQueue.tail, wrCount := s.wrCount + 1, trace := s.trace ++ [.wr bytes (s.wrAnswer bytes.length)] }

/-- `sample BUSY` and `POLLS <- POLLS + 1`: the event with its level, and one level of the environment used up (R24, R133). -/
def State.sampleBusy (s : State) : State :=
  { s with busyQueue := s.busyQueue.tail, busyCount := s.busyCount + 1, polls := s.polls + 1, trace := s.trace ++ [.busy (s.busyAt 0)] }

/-- `ST <- st` (R23). -/
def State.setSt (st : St) (s : State) : State := { s with st := st }

/-- The operation ends and the host gets `r` (R9, R227): SEQ and POLLS cease to exist (R27), and after an error a host
that stops at errors drops the rest of its program (R92). -/
def State.finish (r : Ret) (s : State) : State :=
  { s with
    seq := .idle
    polls := 0
    returns := s.returns ++ [r]
    program := match r, s.onError with
      | .error _, .stop => []
      | _, _ => s.program }

/-- `ST <- Fault` where a bus-phase error ends a panel operation (R138). -/
def State.markFault (op : OpName) (e : Err) (s : State) : State :=
  if isPanelOp op && busPhase e then { s with st := .fault } else s

/-- After a TransportError the level of chip-select is unspecified: a free value (R110, R227; log 4). -/
def State.loseCs (e : Err) (s : State) : State :=
  match e with
  | .transport _ _ _ => { s with csL := Config.csAfterFailure s.free, free := s.free + 1 }
  | .invalidBufferSize _ _ | .busyTimeout _ | .invalidState _ | .outOfRange _ _ => s

/-- `raise e` inside operation `op` (R227): the one way an error is taken. The operation and its callers stop, `ST` becomes
Fault where R138 says so, nothing is undone, no event is added, and the host gets the error. -/
def State.raiseIn (op : OpName) (e : Err) (s : State) : State :=
  ((s.markFault op e).loseCs e).finish (.error e)

/-- What doing one line leads to. -/
inductive Flow where
  /-- On to the next line. -/
  | next (s : State)
  /-- The line raised an error (R227). -/
  | raise (e : Err) (s : State)
  /-- The sample was not idle and the budget is not used up: the poll loop turns (R133). -/
  | busy (s : State)

/-- Do one pseudocode line (R7). -/
def runLine (l : Line) (s : State) : Flow :=
  match l with
  | .setRst v => .next (s.setRst v)
  | .setDc v => .next (s.setDc v)
  | .csAssert => .next s.assertCs
  | .csDeassert => .next s.deassertCs
  | .wr off chunk =>
    if takenWhole chunk.length (s.wrAnswer chunk.length) then .next (s.wr chunk)
    else .raise (.transport off chunk.length (s.wrAnswer chunk.length)) (s.wr chunk)
  | .delay ms => .next (s.emit (.dly ms))
  | .pollsZero => .next { s with polls := 0 }
  | .sample =>
    if isIdleLevel s.cfg (s.busyAt 0) then .next s.sampleBusy
    else if budgetSpent s.cfg (s.polls + 1) then .raise (.busyTimeout (s.polls + 1)) s.sampleBusy
    else .busy s.sampleBusy
  | .setSt st => .next (s.setSt st)

/-! ### The lines of the bus phase -/

/-- The chunk loop of TRANSFER unrolled: chunks of `c` bytes from the front, the rest as one shorter last chunk (R110). The
first argument bounds the number of chunks; the length of the list is enough. -/
def chunkLines (c : Nat) : Nat → Nat → List Byte → List Line
  | 0, _, _ => []
  | _ + 1, _, [] => []
  | n + 1, off, b :: bs => .wr off ((b :: bs).take c) :: chunkLines c n (off + c) ((b :: bs).drop c)

/-- TRANSFER (R110). -/
def transferLines (c : Cfg) (bytes : List Byte) : List Line :=
  .csAssert :: (chunkLines c.chunk bytes.length 0 bytes ++ [.csDeassert])

/-- SEND_COMMAND (R111). -/
def sendCommandLines (c : Cfg) (opcode : Byte) : List Line :=
  .setDc Config.dcCommandLevel :: transferLines c [opcode]

/-- SEND_DATA (R112). -/
def sendDataLines (c : Cfg) (bytes : List Byte) : List Line :=
  if bytes.isEmpty && c.elideEmptyData then [] else .setDc Config.dcDataLevel :: transferLines c bytes

/-- SEND (R113). -/
def sendLines (c : Cfg) (opcode : Byte) (payload : List Byte) : List Line :=
  sendCommandLines c opcode ++ sendDataLines c payload

/-- One turn of the poll loop up to and with its sample (R133). -/
def pollLines (c : Cfg) : List Line :=
  sendLines c c.opGetStatus c.plGetStatus ++ [.delay Config.tPoll, .sample]

/-- WAIT_UNTIL_IDLE: the first turn, and what follows an idle sample (R133). -/
def waitLines (c : Cfg) : List Line :=
  .pollsZero :: (pollLines c ++ [.delay Config.tSettle])

/-- RESET (R131). -/
def resetLines : List Line :=
  [.setRst 1#1, .delay Config.tRstHigh1, .setRst 0#1, .delay Config.tRstLow, .setRst 1#1, .delay Config.tRstHigh2, .setSt .reset]

/-- The table loop of INIT unrolled (R132). -/
def tableLines (c : Cfg) : List (Byte × List Byte) → List Line
  | [] => []
  | (op, pl) :: rest => sendLines c op pl ++ tableLines c rest

/-- INIT after its admission check (R132). -/
def initLines (c : Cfg) : List Line :=
  .setSt .initializing :: (tableLines c c.initSeq ++ (waitLines c ++ [.setSt .ready]))

/-- REFRESH_SEQ (R134). -/
def refreshLines (c : Cfg) : List Line :=
  sendLines c c.opRefresh c.plRefresh ++ (.delay Config.tRefresh :: waitLines c)

/-- PANEL_DRAW after its admission check (R135). -/
def drawLines (c : Cfg) (buffer : List Byte) : List Line :=
  sendLines c c.opDataStart buffer ++ refreshLines c

/-- The plan loop of PANEL_CLEAR unrolled (R136). -/
def planLines (c : Cfg) (n : Nat) : List (Byte × Byte) → List Line
  | [] => []
  | (op, fill) :: rest => sendLines c op (List.replicate n fill) ++ planLines c n rest

/-- PANEL_CLEAR after its admission check (R136). -/
def clearLines (c : Cfg) (plan : List (Byte × Byte)) (n : Nat) : List Line :=
  planLines c n plan ++ refreshLines c

/-- SLEEP after its admission check (R137). -/
def sleepLines (c : Cfg) : List Line :=
  sendLines c c.opPowerOff c.plPowerOff ++ (waitLines c ++ (sendLines c c.opDeepSleep c.plDeepSleep ++ [.setSt .sleeping]))

/-! ### Running lines -/

/-- Run the lines of operation `op` until it returns, an error is raised, or a busy sample turns the poll loop; then SEQ
stands at the head of the next turn (R27, R133; log 5). Running off the last line is `return Ok`. -/
def advance (op : OpName) : List Line → State → State
  | [], s => s.finish (.ok .unit)
  | l :: ls, s =>
    match runLine l s with
    | .next s' => advance op ls s'
    | .raise e s' => s'.raiseIn op e
    | .busy s' => { s' with seq := .running op (pollLines s'.cfg ++ ls) }

/-- One line of the running operation, the step of R27; while SEQ is idle nothing happens. -/
def stepLine (s : State) : State :=
  match s.seq with
  | .idle => s
  | .running _ [] => s.finish (.ok .unit)
  | .running op (l :: ls) =>
    match runLine l s with
    | .next s' => { s' with seq := .running op ls }
    | .raise e s' => s'.raiseIn op e
    | .busy s' => { s' with seq := .running op (pollLines s'.cfg ++ ls) }

/-- `n` lines. -/
def stepLines : Nat → State → State
  | 0, s => s
  | n + 1, s => stepLines n (stepLine s)

/-! ### Starting an operation -/

/-- The host starts an operation only while SEQ is idle; a start while one runs is refused (R264, I21). -/
def State.whenIdle (s : State) (k : Out) : Out :=
  match s.seq with
  | .idle => k
  | .running _ _ => .refused .reentrant

/-- Start the bus phase of an operation (log 16 for `CHUNK = 0`). -/
def State.launch (s : State) (op : OpName) (lines : List Line) : Out :=
  if s.cfg.chunk = 0 then .refused .zeroChunk else .next (advance op lines s)

/-- The admission check: an operation started in another state raises InvalidState (R130). -/
def State.admitted (s : State) (op : OpName) (need : St) (k : Out) : Out :=
  if s.st = need then k else .next (s.raiseIn op (.invalidState s.st))

/-- A size check: a length other than the one wanted raises InvalidBufferSize (R222). -/
def State.checkLen (s : State) (op : OpName) (got wanted : Nat) (k : Out) : Out :=
  if got = wanted then k else .next (s.raiseIn op (.invalidBufferSize got wanted))

/-- A row that exists on one variant only (R81, R96; log 17). -/
def State.onVariant (s : State) (v : Variant) (k : Out) : Out :=
  if s.cfg.variant = v then k else .refused .wrongVariant

/-- A pure operation returns its result and does nothing else (R195). -/
def State.give (s : State) (v : Value) : Out := .next (s.finish (.ok v))

end Sys2Proof.Machine
end

