-- ==== Sys2Proof/Machine/Packer.lean ====
section
/-! DEFINITION. The Bitplane Packer and raster operations PACK_MONO, GET_PIXEL, SET_PIXEL, PACK_BICHRO (R190 to R194) and
the pixel encodings PIXEL_BLACK, PIXEL_WHITE, PIXEL_COLOR, FRAMEBYTE, MONOBYTE (R87 to R89; log 10). All are pure: they
drive no line, add no event and neither read nor write `ST` (R195). -/

namespace Sys2Proof.Machine

/-- One row of a MonochromeBitmap (R190). -/
def packRow (c : Cfg) (f : Nat → Bool) : List Byte :=
  (List.range c.stride).map fun bx => packByte fun k => f (8 * bx + k)

/-- The result of PACK_MONO: rows from the top, `STRIDE` bytes a row (R190, R51). -/
def packMono (c : Cfg) (f : Nat → Nat → Bool) : List Byte :=
  (List.range c.h).flatMap fun y => packRow c fun x => f x y

/-- Frame byte `4*i + k` from plane bytes `i`: pair `k` is bits `7-2k` (left) and `6-2k` (right) (R54, R194). -/
def packPair (c : Cfg) (b k : Byte) (pair : Nat) : Byte :=
  frameByteOf (c.code (b.getLsbD (7 - 2 * pair)) (k.getLsbD (7 - 2 * pair)))
    (c.code (b.getLsbD (6 - 2 * pair)) (k.getLsbD (6 - 2 * pair)))

/-- The result of PACK_BICHRO on planes of equal length: four frame bytes a plane byte (R194). -/
def packBichro (c : Cfg) : List Byte → List Byte → List Byte
  | b :: bs, k :: ks => (List.range 4).map (packPair c b k) ++ packBichro c bs ks
  | _, _ => []

/-- PACK_MONO(px) (R190): refused where `px` is not defined on its whole domain (D19). -/
def execPackMono (px : PixelMap) (s : State) : Out :=
  s.whenIdle (if px.definedOn s.cfg then s.give (.bytes (packMono s.cfg px.bit)) else .refused .pixelUndefined)

/-- `x < 0 or y < 0 or x ≥ w or y ≥ h`. -/
def outside (x y : Int) (w h : Nat) : Bool :=
  decide (x < 0) || decide (y < 0) || decide ((w : Int) ≤ x) || decide ((h : Int) ≤ y)

/-- The pixel GET_PIXEL reads, coordinates checked (R191). -/
def pixelAt (c : Cfg) (bytes : List Byte) (x y : Nat) : Bool :=
  pixelSet (bytes.getD (c.rasterIndex x y) 0x00#8) x

/-- GET_PIXEL(buf, x, y) (R191). -/
def execGetPixel (buf : Buf) (x y : Int) (s : State) : Out :=
  s.whenIdle (s.checkLen .getPixel (s.bytesOf buf).length s.cfg.planeLen
    (if outside x y (8 * s.cfg.stride) s.cfg.h then .next (s.raiseIn .getPixel (.outOfRange x y))
     else s.give (.bit (pixelAt s.cfg (s.bytesOf buf) x.toNat y.toNat))))

/-- What SET_PIXEL returns: `Ok`, and where the buffer was handed in by value its content after (log 11). -/
def surfaceResult (buf : Buf) (bytes : List Byte) : Value :=
  match buf with
  | .lit _ => .bytes bytes
  | .ref _ => .unit

/-- Set or clear the pixel's bit in byte `i` of the buffer (R192); a byte outside the buffer has no meaning (R198; log 12). -/
def putSurfacePixel (buf : Buf) (bytes : List Byte) (i x : Nat) (v : Bool) (s : State) : Out :=
  match bytes[i]? with
  | none => .refused .indexOutsideBuffer
  | some b =>
    (s.putBytes buf (storeByte bytes i (putPixel b x v))).give
      (surfaceResult buf (storeByte bytes i (putPixel b x v)))

/-- SET_PIXEL(buf, x, y, v) (R192): refused where 8 does not divide `W` (R52); negative coordinates are ignored. -/
def execSetPixel (buf : Buf) (x y : Int) (v : Bool) (s : State) : Out :=
  s.whenIdle (
    if s.cfg.w % 8 ≠ 0 then .refused .surfaceWidth
    else if x < 0 ∨ y < 0 then s.give (surfaceResult buf (s.bytesOf buf))
    else if outside x y s.cfg.w s.cfg.h then .next (s.raiseIn .setPixel (.outOfRange x y))
    else putSurfacePixel buf (s.bytesOf buf) (s.cfg.surfaceIndex x.toNat y.toNat) x.toNat v s)

/-- PACK_BICHRO(black_plane, color_plane) (R194): any equal lengths. -/
def execPackBichro (blackPlane colorPlane : Buf) (s : State) : Out :=
  s.whenIdle (s.checkLen .packBichro (s.bytesOf blackPlane).length (s.bytesOf colorPlane).length
    (s.give (.bytes (packBichro s.cfg (s.bytesOf blackPlane) (s.bytesOf colorPlane)))))

/-- PIXEL_BLACK: the code of a black pixel (R88). -/
def execPixelBlack (s : State) : Out := s.whenIdle (s.give (.code PixelCode.black.nibble))

/-- PIXEL_WHITE: the code of a white pixel (R88). -/
def execPixelWhite (s : State) : Out := s.whenIdle (s.give (.code PixelCode.white.nibble))

/-- PIXEL_COLOR: the code of a coloured pixel (R88). -/
def execPixelColor (s : State) : Out := s.whenIdle (s.give (.code PixelCode.color.nibble))

/-- FRAMEBYTE: the byte of two pixel codes (R89). -/
def execFrameByte (left right : PixelCode) (s : State) : Out :=
  s.whenIdle (s.give (.byte (frameByteOf left right)))

/-- MONOBYTE: the byte of eight pixels, leftmost in bit 7 (R87). -/
def execMonoByte (a b c d e f g h : Bool) (s : State) : Out :=
  s.whenIdle (s.give (.byte (packByte fun k => [a, b, c, d, e, f, g, h].getD k false)))

end Sys2Proof.Machine
end

