-- ==== Sys2Proof/Machine/PanelFsm.lean ====
section
/-! DEFINITION. The Panel State Machine operations RESET, INIT, WAIT_UNTIL_IDLE, SLEEP (R131, R132, R133, R137) and the
internal PANEL_DRAW and PANEL_CLEAR (R135, R136). -/

namespace Sys2Proof.Machine

/-- RESET (R131): admitted in every protocol state, uses no `WR`, cannot fail. -/
def execReset (s : State) : Out :=
  s.whenIdle (.next (advance .reset resetLines s))

/-- INIT (R132): admitted in `Reset` only. -/
def execInit (s : State) : Out :=
  s.whenIdle (s.admitted .init .reset (s.launch .init (initLines s.cfg)))

/-- WAIT_UNTIL_IDLE started by the host (R133): admitted in every protocol state, which it neither reads nor writes. -/
def execWaitUntilIdle (s : State) : Out :=
  s.whenIdle (s.launch .waitUntilIdle (waitLines s.cfg))

/-- SLEEP (R137): admitted in `Ready` only. -/
def execSleep (s : State) : Out :=
  s.whenIdle (s.admitted .sleep .ready (s.launch .sleep (sleepLines s.cfg)))

/-- PANEL_DRAW(buffer) inside operation `op` (R135). -/
def panelDraw (op : OpName) (buffer : List Byte) (s : State) : Out :=
  s.admitted op .ready (s.launch op (drawLines s.cfg buffer))

/-- PANEL_CLEAR(plan, n) (R136). -/
def panelClear (plan : List (Byte × Byte)) (n : Nat) (s : State) : Out :=
  s.admitted .clear .ready (s.launch .clear (clearLines s.cfg plan n))

end Sys2Proof.Machine
end

