-- ==== Sys2Proof/Machine/Transport.lean ====
section
/-! DEFINITION. The Bus Transport operations TRANSFER, SEND_COMMAND, SEND_DATA, SEND (R110 to R113). None reads or
writes `ST`; all are admitted in every protocol state (D33). -/

namespace Sys2Proof.Machine

/-- TRANSFER(bytes) (R110): DC is neither read nor written. -/
def execTransfer (bytes : Buf) (s : State) : Out :=
  s.whenIdle (s.launch .transfer (transferLines s.cfg (s.bytesOf bytes)))

/-- SEND_COMMAND(opcode) (R111): any byte is accepted. -/
def execSendCommand (opcode : Byte) (s : State) : Out :=
  s.whenIdle (s.launch .sendCommand (sendCommandLines s.cfg opcode))

/-- SEND_DATA(bytes) (R112). -/
def execSendData (bytes : Buf) (s : State) : Out :=
  s.whenIdle (s.launch .sendData (sendDataLines s.cfg (s.bytesOf bytes)))

/-- SEND(opcode, payload) (R113). -/
def execSend (opcode : Byte) (payload : Buf) (s : State) : Out :=
  s.whenIdle (s.launch .send (sendLines s.cfg opcode (s.bytesOf payload)))

end Sys2Proof.Machine
end

