-- ==== Sys2Proof/Machine/Variants.lean ====
section
/-! DEFINITION. The Panel Driver Variants: DRAW and CLEAR of the monochrome and of the bichromatic variant, DRAW2 (R161 to
R165), and the reads of configuration `width` and `height` (R96). Operand checks come before the state check (R226). -/

namespace Sys2Proof.Machine

/-- MONO.DRAW(buffer) (R161). -/
def execMonoDraw (buffer : Buf) (s : State) : Out :=
  s.whenIdle (s.onVariant .mono (s.checkLen .draw (s.bytesOf buffer).length s.cfg.planeLen
    (panelDraw .draw (s.bytesOf buffer) s)))

/-- MONO.CLEAR(black) (R162). -/
def execMonoClear (black : Bool) (s : State) : Out :=
  s.whenIdle (s.onVariant .mono (panelClear (s.cfg.monoClearSeq black) s.cfg.planeLen s))

/-- The body of DRAW2, which BICHRO.DRAW expands to (R163, R164): the equal-length check before the `PLANE_LEN` check. -/
def drawPlanes (op : OpName) (blackPlane colorPlane : List Byte) (s : State) : Out :=
  s.checkLen op blackPlane.length colorPlane.length (s.checkLen op blackPlane.length s.cfg.planeLen
    (panelDraw op (packBichro s.cfg blackPlane colorPlane) s))

/-- DRAW2(black_plane, color_plane) (R163): refused on the Mono variant (R96). -/
def execDraw2 (blackPlane colorPlane : Buf) (s : State) : Out :=
  s.whenIdle (s.onVariant .bichro (drawPlanes .draw2 (s.bytesOf blackPlane) (s.bytesOf colorPlane) s))

/-- BICHRO.DRAW(buffer) = DRAW2(buffer, ZERO_PLANE) (R164). -/
def execBichroDraw (buffer : Buf) (s : State) : Out :=
  s.whenIdle (s.onVariant .bichro (drawPlanes .draw (s.bytesOf buffer) s.cfg.zeroPlane s))

/-- The fill byte of BICHRO.CLEAR: 0x00 for black, 0x33 for white (R165). -/
def bichroFill (black : Bool) : Byte := if black then 0x00#8 else 0x33#8

/-- BICHRO.CLEAR(black) (R165). -/
def execBichroClear (black : Bool) (s : State) : Out :=
  s.whenIdle (s.onVariant .bichro (panelClear [(s.cfg.opDataStart, bichroFill black)] s.cfg.bichroClearLen s))

/-- `width` (R96). -/
def State.width (s : State) : Nat := s.cfg.w

/-- `height` (R96). -/
def State.height (s : State) : Nat := s.cfg.h

end Sys2Proof.Machine
end

