-- ==== Sys2Proof/Machine/WireCommands.lean ====
section
/-! DEFINITION. The twelve wire commands (R166 to R177). On the controller each is a SEND of its `CFG.OP_*` opcode and its
payload (R85, R113): it changes `DC_L` and `CS_L` only. What it does inside the panel is out of scope (R3). -/

namespace Sys2Proof.Machine

/-- One wire command started by the host: the raw SEND of its opcode and payload (R85, R113; log 9). -/
def wireCommand (opcode : Byte) (payload : List Byte) (s : State) : Out :=
  s.whenIdle (s.launch .send (sendLines s.cfg opcode payload))

/-- POWER_SETTING (R166). -/
def execPowerSetting (payload : List Byte) (s : State) : Out := wireCommand s.cfg.opPowerSetting payload s

/-- PANEL_SETTING (R167). -/
def execPanelSetting (payload : List Byte) (s : State) : Out := wireCommand s.cfg.opPanelSetting payload s

/-- PLL_CONTROL (R168). -/
def execPllControl (payload : List Byte) (s : State) : Out := wireCommand s.cfg.opPllControl payload s

/-- VCOM_DATA_INTERVAL (R169). -/
def execVcomDataInterval (payload : List Byte) (s : State) : Out := wireCommand s.cfg.opVcomDataInterval payload s

/-- BOOSTER_SOFT_START (R170). -/
def execBoosterSoftStart (payload : List Byte) (s : State) : Out := wireCommand s.cfg.opBoosterSoftStart payload s

/-- TCON_RESOLUTION (R171). -/
def execTconResolution (payload : List Byte) (s : State) : Out := wireCommand s.cfg.opTconResolution payload s

/-- DATA_START (R172). -/
def execDataStart (payload : List Byte) (s : State) : Out := wireCommand s.cfg.opDataStart payload s

/-- DATA_START_2 (R173). -/
def execDataStart2 (payload : List Byte) (s : State) : Out := wireCommand s.cfg.opDataStart2 payload s

/-- DISPLAY_REFRESH (R174). -/
def execDisplayRefresh (payload : List Byte) (s : State) : Out := wireCommand s.cfg.opRefresh payload s

/-- POWER_OFF (R175). -/
def execPowerOff (payload : List Byte) (s : State) : Out := wireCommand s.cfg.opPowerOff payload s

/-- DEEP_SLEEP (R176). -/
def execDeepSleep (payload : List Byte) (s : State) : Out := wireCommand s.cfg.opDeepSleep payload s

/-- GET_STATUS (R177): nothing is read back. -/
def execGetStatus (payload : List Byte) (s : State) : Out := wireCommand s.cfg.opGetStatus payload s

end Sys2Proof.Machine
end

