-- ==== Sys2Proof/Machine/Dispatch.lean ====
section
/-! DEFINITION. One arm per constructor of Instr, each one direct call of its meaning. -/

namespace Sys2Proof.Machine

def exec (i : Instr) (s : State) : Host.Outcome State Fault Refusal :=
  match i with
  | .transfer bytes => Sys2Proof.Machine.execTransfer bytes s
  | .sendCommand opcode => Sys2Proof.Machine.execSendCommand opcode s
  | .sendData bytes => Sys2Proof.Machine.execSendData bytes s
  | .send opcode payload => Sys2Proof.Machine.execSend opcode payload s
  | .reset => Sys2Proof.Machine.execReset s
  | .init => Sys2Proof.Machine.execInit s
  | .waitUntilIdle => Sys2Proof.Machine.execWaitUntilIdle s
  | .sleep => Sys2Proof.Machine.execSleep s
  | .draw2 blackPlane colorPlane => Sys2Proof.Machine.execDraw2 blackPlane colorPlane s
  | .monoDraw buffer => Sys2Proof.Machine.execMonoDraw buffer s
  | .bichroDraw buffer => Sys2Proof.Machine.execBichroDraw buffer s
  | .monoClear black => Sys2Proof.Machine.execMonoClear black s
  | .bichroClear black => Sys2Proof.Machine.execBichroClear black s
  | .packMono px => Sys2Proof.Machine.execPackMono px s
  | .getPixel buf x y => Sys2Proof.Machine.execGetPixel buf x y s
  | .setPixel buf x y v => Sys2Proof.Machine.execSetPixel buf x y v s
  | .packBichro blackPlane colorPlane => Sys2Proof.Machine.execPackBichro blackPlane colorPlane s
  | .powerSetting payload => Sys2Proof.Machine.execPowerSetting payload s
  | .panelSetting payload => Sys2Proof.Machine.execPanelSetting payload s
  | .pllControl payload => Sys2Proof.Machine.execPllControl payload s
  | .vcomDataInterval payload => Sys2Proof.Machine.execVcomDataInterval payload s
  | .boosterSoftStart payload => Sys2Proof.Machine.execBoosterSoftStart payload s
  | .tconResolution payload => Sys2Proof.Machine.execTconResolution payload s
  | .dataStart payload => Sys2Proof.Machine.execDataStart payload s
  | .dataStart2 payload => Sys2Proof.Machine.execDataStart2 payload s
  | .displayRefresh payload => Sys2Proof.Machine.execDisplayRefresh payload s
  | .powerOff payload => Sys2Proof.Machine.execPowerOff payload s
  | .deepSleep payload => Sys2Proof.Machine.execDeepSleep payload s
  | .getStatus payload => Sys2Proof.Machine.execGetStatus payload s
  | .pixelBlack => Sys2Proof.Machine.execPixelBlack s
  | .pixelWhite => Sys2Proof.Machine.execPixelWhite s
  | .pixelColor => Sys2Proof.Machine.execPixelColor s
  | .frameByte left right => Sys2Proof.Machine.execFrameByte left right s
  | .monoByte a b c d e f g h => Sys2Proof.Machine.execMonoByte a b c d e f g h s

end Sys2Proof.Machine
end

