-- ==== Sys2Proof/WellFormed.lean ====
section
/-! DEFINITION. Well-formedness: of a configuration (R160, R162, R165, R172, R173, D4, D5, D24, D30) and of an instruction under a
configuration (the variant of its row R161 to R165, R96; the domain of its pixel function R190; the width of its
Surface R52). Both are Bools a test can compute. -/

namespace Sys2Proof

/-- The twelve opcode bytes of the command table (R86). -/
def Cfg.opcodes (c : Cfg) : List Byte :=
  [c.opPowerSetting, c.opPanelSetting, c.opPllControl, c.opVcomDataInterval, c.opBoosterSoftStart, c.opTconResolution,
   c.opDataStart, c.opDataStart2, c.opRefresh, c.opPowerOff, c.opDeepSleep, c.opGetStatus]

/-- No byte of the list stands in it twice. -/
def distinctBytes : List Byte → Bool
  | [] => true
  | b :: bs => !bs.contains b && distinctBytes bs

/-- The opcode values of one CFG are pairwise distinct (R86, R160). -/
def Cfg.opcodesDistinct (c : Cfg) : Bool := distinctBytes c.opcodes

/-- `INIT_SEQ` holds an entry for each of the six named settings (R160). -/
def Cfg.initSeqComplete (c : Cfg) : Bool :=
  [c.opPowerSetting, c.opPanelSetting, c.opPllControl, c.opVcomDataInterval, c.opBoosterSoftStart,
   c.opTconResolution].all fun op => c.initSeq.any fun e => e.1 == op

/-- Neither data-start opcode is the opcode of an entry of `INIT_SEQ` (R172, R173: `INIT` sends neither). -/
def Cfg.initSeqNoImage (c : Cfg) : Bool := c.initSeq.all fun e => e.1 != c.opDataStart && e.1 != c.opDataStart2

/-- The fill byte of a clear plan's first entry. -/
def firstFill (plan : List (Byte × Byte)) : Option Byte := plan.head?.map Prod.snd

/-- One plan of `MONO_CLEAR_SEQ`: fills are 0x00 or 0xFF, A first, and B second if there is a second (R162 b, c, d). -/
def Cfg.monoPlanOk (c : Cfg) (plan : List (Byte × Byte)) : Bool :=
  (plan.all fun e => e.2 == 0x00#8 || e.2 == 0xFF#8) &&
  (plan.map Prod.fst == [c.opDataStart] || plan.map Prod.fst == [c.opDataStart, c.opDataStart2])

/-- The two plans together: one has one entry and the other two (R162 d), and their first fills differ (R162 e). -/
def Cfg.monoClearOk (c : Cfg) : Bool :=
  c.monoPlanOk c.monoClearBlack && c.monoPlanOk c.monoClearWhite &&
  (c.monoClearBlack.length != c.monoClearWhite.length) && (firstFill c.monoClearBlack != firstFill c.monoClearWhite)

/-- `BICHRO_CLEAR_LEN` has one of its two admissible values (R165). -/
def Cfg.bichroClearOk (c : Cfg) : Bool := c.bichroClearLen == c.w * c.h / 2 || c.bichroClearLen == c.w * c.h * 4

/-- A poll budget, where there is one, is at least 1 (D4). -/
def Cfg.pollBudgetOk (c : Cfg) : Bool :=
  match c.pollBudget with
  | none => true
  | some b => decide (1 ≤ b)

/-- A well-formed configuration (R4, R160, R162, R165, R172, R173). -/
def Cfg.wf (c : Cfg) : Bool :=
  decide (1 ≤ c.w) && decide (1 ≤ c.h) && decide (1 ≤ c.chunk) && c.pollBudgetOk && c.opcodesDistinct &&
  c.initSeqComplete && c.initSeqNoImage && c.monoClearOk && c.bichroClearOk

/-- A well-formed instruction under a configuration: it has a meaning there. -/
def Instr.wf (c : Cfg) : Instr → Bool
  | .draw2 _ _ => decide (c.variant = .bichro)
  | .monoDraw _ => decide (c.variant = .mono)
  | .bichroDraw _ => decide (c.variant = .bichro)
  | .monoClear _ => decide (c.variant = .mono)
  | .bichroClear _ => decide (c.variant = .bichro)
  | .packMono px => px.definedOn c
  | .setPixel _ _ _ _ => decide (c.w % 8 = 0)
  | .transfer _ | .sendCommand _ | .sendData _ | .send _ _ | .reset | .init | .waitUntilIdle | .sleep => true
  | .getPixel _ _ _ | .packBichro _ _ => true
  | .powerSetting _ | .panelSetting _ | .pllControl _ | .vcomDataInterval _ | .boosterSoftStart _ | .tconResolution _ => true
  | .dataStart _ | .dataStart2 _ | .displayRefresh _ | .powerOff _ | .deepSleep _ | .getStatus _ => true
  | .pixelBlack | .pixelWhite | .pixelColor | .frameByte _ _ | .monoByte _ _ _ _ _ _ _ _ => true

end Sys2Proof
end

