-- ==== Sys2Proof/Decode.lean ====
section
/-! DEFINITION. The decoder, total on every encoded form and rejecting by name, and after it the encoder, both written
from the selector table of R81, the command table of R86 and the pixel encodings of R87 to R89. DRAW and CLEAR share
their selector between two rows, which CFG.VARIANT tells apart (R81, R92). -/

namespace Sys2Proof

/-- The fifteen host selectors of R81. -/
inductive HostSel where
  | transfer
  | sendCommand
  | sendData
  | send
  | reset
  | init
  | waitUntilIdle
  | draw
  | clear
  | sleep
  | draw2
  | packMono
  | getPixel
  | setPixel
  | packBichro
deriving DecidableEq, Repr

/-- `OPSEL` of each host operation (R81, D1). -/
def opselOf : HostSel → Byte
  | .transfer => 0x01#8
  | .sendCommand => 0x02#8
  | .sendData => 0x03#8
  | .send => 0x04#8
  | .reset => 0x10#8
  | .init => 0x11#8
  | .waitUntilIdle => 0x12#8
  | .draw => 0x13#8
  | .clear => 0x14#8
  | .sleep => 0x15#8
  | .draw2 => 0x16#8
  | .packMono => 0x20#8
  | .getPixel => 0x21#8
  | .setPixel => 0x22#8
  | .packBichro => 0x23#8

/-- The rows of R81's table, in its order. -/
def hostSels : List HostSel :=
  [.transfer, .sendCommand, .sendData, .send, .reset, .init, .waitUntilIdle, .draw, .clear, .sleep, .draw2,
   .packMono, .getPixel, .setPixel, .packBichro]

/-- The host operation a selector byte names, if it is listed (R81, R91). -/
def selectorOf (b : Byte) : Option HostSel := hostSels.find? fun h => opselOf h == b

/-- The instruction a selector and its operand list make: the operands R81 lists, in its order; DRAW and CLEAR are the
row of the configured variant (R92). -/
def decodeOperands (v : Variant) : HostSel → List Operand → Option Instr
  | .transfer, [.buf b] => some (.transfer b)
  | .sendCommand, [.byte op] => some (.sendCommand op)
  | .sendData, [.buf b] => some (.sendData b)
  | .send, [.byte op, .buf b] => some (.send op b)
  | .reset, [] => some .reset
  | .init, [] => some .init
  | .waitUntilIdle, [] => some .waitUntilIdle
  | .draw, [.buf b] => some (match v with | .mono => .monoDraw b | .bichro => .bichroDraw b)
  | .clear, [.bit black] => some (match v with | .mono => .monoClear black | .bichro => .bichroClear black)
  | .sleep, [] => some .sleep
  | .draw2, [.buf b, .buf c] => some (.draw2 b c)
  | .packMono, [.pixels px] => some (.packMono px)
  | .getPixel, [.buf b, .int x, .int y] => some (.getPixel b x y)
  | .setPixel, [.buf b, .int x, .int y, .bit v] => some (.setPixel b x y v)
  | .packBichro, [.buf b, .buf c] => some (.packBichro b c)
  | _, _ => none

/-- The command table of one CFG: each opcode byte with the wire command it names (R86). -/
def commandTable (c : Cfg) : List (Byte × (List Byte → Instr)) :=
  [(c.opPowerSetting, .powerSetting), (c.opPanelSetting, .panelSetting), (c.opPllControl, .pllControl),
   (c.opVcomDataInterval, .vcomDataInterval), (c.opBoosterSoftStart, .boosterSoftStart),
   (c.opTconResolution, .tconResolution), (c.opDataStart, .dataStart), (c.opDataStart2, .dataStart2),
   (c.opRefresh, .displayRefresh), (c.opPowerOff, .powerOff), (c.opDeepSleep, .deepSleep), (c.opGetStatus, .getStatus)]

/-- The wire command an opcode byte and its payload are: the opcode compared with the `CFG.OP_*` fields (R86). -/
def decodeCommand (c : Cfg) (opcode : Byte) (payload : List Byte) : Option Instr :=
  ((commandTable c).find? fun row => row.1 == opcode).map fun row => row.2 payload

/-- The pixel code a nibble is (R88, R90). -/
def decodeNibble (n : Nibble) : Option PixelCode :=
  if n = 0x0#4 then some .black else if n = 0x3#4 then some .white else if n = 0x4#4 then some .color else none

/-- The NIBBLE row a pixel code is. -/
def pixelInstr : PixelCode → Instr
  | .black => .pixelBlack
  | .white => .pixelWhite
  | .color => .pixelColor

/-- The frame byte a byte is: left code in bits 7 to 4, right code in bits 3 to 0 (R89). -/
def decodeFrameByte (b : Byte) : Option Instr :=
  match decodeNibble (b.extractLsb' 4 4), decodeNibble (b.extractLsb' 0 4) with
  | some l, some r => some (.frameByte l r)
  | _, _ => none

/-- The eight pixels a byte is, leftmost in bit 7 (R87). -/
def decodeMonoByte (b : Byte) : Instr :=
  .monoByte (pixelSet b 0) (pixelSet b 1) (pixelSet b 2) (pixelSet b 3) (pixelSet b 4) (pixelSet b 5) (pixelSet b 6)
    (pixelSet b 7)

/-- The instruction an encoded form is under a configuration, or why it is none. -/
def decode (c : Cfg) : Encoded → Except DecodeError Instr
  | .hostop opsel operands =>
    match selectorOf opsel with
    | none => .error (.unlistedSelector opsel)
    | some h =>
      match decodeOperands c.variant h operands with
      | none => .error (.wrongOperands opsel)
      | some i => .ok i
  | .wirecmd opcode payload =>
    match decodeCommand c opcode payload with
    | none => .error (.unlistedOpcode opcode)
    | some i => .ok i
  | .nibble n =>
    match decodeNibble n with
    | none => .error (.unusedNibble n)
    | some p => .ok (pixelInstr p)
  | .framebyte b =>
    match decodeFrameByte b with
    | none => .error (.unusedFrameByte b)
    | some i => .ok i
  | .monobyte b => .ok (decodeMonoByte b)

/-- A host operation with its selector byte and operands (R81). -/
def hostOp (h : HostSel) (operands : List Operand) : Encoded := .hostop (opselOf h) operands

/-- Eight pixels in one byte, `a` in bit 7 to `h` in bit 0 (R87). -/
def monoByteOf (a b c d e f g h : Bool) : Byte :=
  packByte fun k => [a, b, c, d, e, f, g, h].getD k false

/-- The encoded form of an instruction under a configuration. -/
def encode (c : Cfg) : Instr → Encoded
  | .transfer b => hostOp .transfer [.buf b]
  | .sendCommand op => hostOp .sendCommand [.byte op]
  | .sendData b => hostOp .sendData [.buf b]
  | .send op b => hostOp .send [.byte op, .buf b]
  | .reset => hostOp .reset []
  | .init => hostOp .init []
  | .waitUntilIdle => hostOp .waitUntilIdle []
  | .sleep => hostOp .sleep []
  | .draw2 b k => hostOp .draw2 [.buf b, .buf k]
  | .monoDraw b => hostOp .draw [.buf b]
  | .bichroDraw b => hostOp .draw [.buf b]
  | .monoClear black => hostOp .clear [.bit black]
  | .bichroClear black => hostOp .clear [.bit black]
  | .packMono px => hostOp .packMono [.pixels px]
  | .getPixel b x y => hostOp .getPixel [.buf b, .int x, .int y]
  | .setPixel b x y v => hostOp .setPixel [.buf b, .int x, .int y, .bit v]
  | .packBichro b k => hostOp .packBichro [.buf b, .buf k]
  | .powerSetting pl => .wirecmd c.opPowerSetting pl
  | .panelSetting pl => .wirecmd c.opPanelSetting pl
  | .pllControl pl => .wirecmd c.opPllControl pl
  | .vcomDataInterval pl => .wirecmd c.opVcomDataInterval pl
  | .boosterSoftStart pl => .wirecmd c.opBoosterSoftStart pl
  | .tconResolution pl => .wirecmd c.opTconResolution pl
  | .dataStart pl => .wirecmd c.opDataStart pl
  | .dataStart2 pl => .wirecmd c.opDataStart2 pl
  | .displayRefresh pl => .wirecmd c.opRefresh pl
  | .powerOff pl => .wirecmd c.opPowerOff pl
  | .deepSleep pl => .wirecmd c.opDeepSleep pl
  | .getStatus pl => .wirecmd c.opGetStatus pl
  | .pixelBlack => .nibble PixelCode.black.nibble
  | .pixelWhite => .nibble PixelCode.white.nibble
  | .pixelColor => .nibble PixelCode.color.nibble
  | .frameByte l r => .framebyte (frameByteOf l r)
  | .monoByte a b c d e f g h => .monobyte (monoByteOf a b c d e f g h)

/-- Operands of zeros for a host selector: zero bytes, integers and bits, the pixel function that is 0 everywhere, the empty
list, or where the operation wants a list of a raster's size the zero buffer of that size under `exampleCfg` (log 8). -/
def zeroOperands : HostSel → List Operand
  | .transfer | .sendData => [.buf (.lit [])]
  | .draw => [.buf (.lit exampleCfg.zeroPlane)]
  | .sendCommand => [.byte 0x00#8]
  | .send => [.byte 0x00#8, .buf (.lit [])]
  | .reset | .init | .waitUntilIdle | .sleep => []
  | .clear => [.bit false]
  | .draw2 | .packBichro => [.buf (.lit exampleCfg.zeroPlane), .buf (.lit exampleCfg.zeroPlane)]
  | .packMono => [.pixels { rows := [], rest := some false }]
  | .getPixel => [.buf (.lit exampleCfg.zeroPlane), .int 0, .int 0]
  | .setPixel => [.buf (.lit exampleCfg.zeroPlane), .int 0, .int 0, .bit false]

/-- The encoded form of a word of the opcode table, operands all zero. A word of at most 4 bits is a NIBBLE; a longer
word whose first byte is a listed selector is a HOSTOP; a byte that is no selector and whose value is a pixel code is
that NIBBLE; any other is a HOSTOP with an unlisted selector (log 8). -/
def tableEncoded (nbits w : Nat) : Encoded :=
  if nbits ≤ 4 then .nibble (BitVec.ofNat 4 w)
  else
    match selectorOf (BitVec.ofNat 8 w) with
    | some h => .hostop (BitVec.ofNat 8 w) (zeroOperands h)
    | none =>
      if w < 16 && (decodeNibble (BitVec.ofNat 4 w)).isSome then .nibble (BitVec.ofNat 4 w)
      else .hostop (BitVec.ofNat 8 w) []

/-- The instruction the decoder reads from a word of the opcode table under `exampleCfg`, the CFG of State.reset. -/
def decodeTableWord (nbits w : Nat) : Option Instr :=
  match decode exampleCfg (tableEncoded nbits w) with
  | .ok i => some i
  | .error _ => none

end Sys2Proof
end

