-- ==== Sys2Proof/Machine/Fetch.lean ====
section
/-! DEFINITION. What the step does when it looks for its next instruction: it goes on with the running operation, or takes
the host's next operation and decodes it (R10, R27, R92; log 5, 7). -/

namespace Sys2Proof.Machine

/-- What the next step works on. -/
inductive Work where
  /-- An operation is running: go on with its lines. -/
  | goOn (op : OpName) (lines : List Line)
  /-- SEQ is idle and the host has nothing to start: the controller waits (R260). -/
  | wait
  /-- SEQ is idle and the host starts an operation. -/
  | start (i : Instr) (rest : List Encoded)
  /-- SEQ is idle and what the host starts is no instruction (R91). -/
  | undecodable (e : DecodeError)

/-- The next piece of work of a state. -/
def State.work (s : State) : Work :=
  match s.seq with
  | .running op lines => .goOn op lines
  | .idle =>
    match s.program with
    | [] => .wait
    | w :: rest =>
      match decode s.cfg w with
      | .ok i => .start i rest
      | .error e => .undecodable e

/-- The host's program with its next operation replaced. -/
def placeFirst (w : Encoded) (program : List Encoded) : List Encoded := w :: program.drop 1

/-- The variant a table word needs: DRAW2 exists on Bichro only (R96); every other word runs under the variant there is. -/
def variantFor (nbits w : Nat) (v : Variant) : Variant :=
  if tableEncoded nbits w = .hostop (opselOf .draw2) (zeroOperands .draw2) then .bichro else v

end Sys2Proof.Machine
end

