-- ==== Sys2Proof/Machine/Step.lean ====
section
/-! DEFINITION. One step of the machine, and where it fetches its next instruction. -/

namespace Sys2Proof.Machine

/-- One step: the running operation goes on to its end or to its next turn of the poll loop; else the host's next operation
is started and runs as far (R27, R92; log 5). -/
def step (s : State) : Host.Outcome State Fault Refusal :=
  match s.work with
  | .goOn op lines => .next (advance op lines s)
  | .wait => .next s
  | .start i rest => exec i { s with program := rest }
  | .undecodable e => .refused (.undecodable e)

/-- `s` with a word of the opcode table as the host's next operation, operands zero, and SEQ idle so that the very next
step starts it (log 7). -/
def State.withFetchWord (s : State) (nbits w : Nat) : State :=
  { s with
    seq := .idle
    program := placeFirst (tableEncoded nbits w) s.program
    cfg := { s.cfg with variant := variantFor nbits w s.cfg.variant } }

end Sys2Proof.Machine
end

