-- ==== Sys2Proof/Machine/WireStream.lean ====
section
/-! DEFINITION. What can be read off the trace: the wire stream and its frames (R8), the wire commands in it (R86), the sum
of the delays (R267). No operation reads the trace (R33). -/

namespace Sys2Proof.Machine

/-- A frame of the wire stream: the DC level latched when chip-select was asserted, `none` where no event has driven it,
and the bytes the transport took (R8; log 24 for a write answered `Fail`). -/
structure Frame where
  dc : Option Level
  data : List Byte
deriving DecidableEq, Repr

/-- The bytes one `WR` put on the wire: the first `r` of them (R8). How many a `WR` answered `Fail` put there the spec leaves
open, since R114 gives `Fail` no count; that it is none is the model's choice (DESIGN CHOICE, unsafe; log 24). -/
def sentBytes (bytes : List Byte) : WrAnswer → List Byte
  | .fail => []
  | .count r => bytes.take r

/-- The bytes on the wire from here to the next CS(deassert) or to the end of the trace (R8). -/
def frameData : List Event → List Byte
  | [] => []
  | .csDeassert :: _ => []
  | .wr bytes r :: es => sentBytes bytes r ++ frameData es
  | .csAssert :: es => frameData es
  | .rst _ :: es => frameData es
  | .dc _ :: es => frameData es
  | .busy _ :: es => frameData es
  | .dly _ :: es => frameData es

/-- One frame for each CS(assert), given the DC level driven so far (R8). -/
def framesAt (dc : Option Level) : List Event → List Frame
  | [] => []
  | .csAssert :: es => { dc := dc, data := frameData es } :: framesAt dc es
  | .dc l :: es => framesAt (some l) es
  | .csDeassert :: es => framesAt dc es
  | .wr _ _ :: es => framesAt dc es
  | .rst _ :: es => framesAt dc es
  | .busy _ :: es => framesAt dc es
  | .dly _ :: es => framesAt dc es

/-- The wire stream of a trace, to the words of R8: a frame runs from its CS(assert) to the next CS(deassert) or to the end of
the trace. -/
def wireStream (es : List Event) : List Frame := framesAt none es

/-- The frames as program P4 of 95_test_vectors.md has them, given the DC level driven so far and the frame that is open: a
frame that a failed write left open also ends at the next CS(assert) (log 20). -/
def framesFrom (dc : Option Level) : Option Frame → List Event → List Frame
  | fr, [] => fr.toList
  | fr, .csAssert :: es => fr.toList ++ framesFrom dc (some { dc := dc, data := [] }) es
  | fr, .csDeassert :: es => fr.toList ++ framesFrom dc none es
  | fr, .dc l :: es => framesFrom (some l) fr es
  | some f, .wr bytes r :: es => framesFrom dc (some { f with data := f.data ++ sentBytes bytes r }) es
  | none, .wr _ _ :: es => framesFrom dc none es
  | fr, .rst _ :: es => framesFrom dc fr es
  | fr, .busy _ :: es => framesFrom dc fr es
  | fr, .dly _ :: es => framesFrom dc fr es

/-- The wire stream in the reading of P4; the same as R8's where every frame was closed (log 20). -/
def delimitedStream (es : List Event) : List Frame := framesFrom none none es

/-- Every CS(assert) of the trace is followed by a CS(deassert) before the next one or by the end of the trace; the first
argument says whether a frame is open. -/
def framesClosed : Bool → List Event → Bool
  | _, [] => true
  | false, .csAssert :: es => framesClosed true es
  | true, .csAssert :: _ => false
  | _, .csDeassert :: es => framesClosed false es
  | o, .rst _ :: es => framesClosed o es
  | o, .dc _ :: es => framesClosed o es
  | o, .wr _ _ :: es => framesClosed o es
  | o, .busy _ :: es => framesClosed o es
  | o, .dly _ :: es => framesClosed o es

/-- The bytes that were offered to the wire while DC was at the command level: the opcodes the trace sends (R83, R86). -/
def opcodesOffered (dc : Option Level) : List Event → List Byte
  | [] => []
  | .dc l :: es => opcodesOffered (some l) es
  | .wr bytes _ :: es => (if dc = some Config.dcCommandLevel then bytes else []) ++ opcodesOffered dc es
  | .csAssert :: es => opcodesOffered dc es
  | .csDeassert :: es => opcodesOffered dc es
  | .rst _ :: es => opcodesOffered dc es
  | .busy _ :: es => opcodesOffered dc es
  | .dly _ :: es => opcodesOffered dc es

/-- The wire commands of a wire stream, read with one CFG: a command frame of one byte, then its data frame if one follows;
an opcode that is in no table row is kept as the frame it came in (R85, R86, R94). -/
def commandsOf (c : Cfg) : List Frame → List (Frame ⊕ Instr)
  | [] => []
  | [f] =>
    match f.dc, f.data with
    | some l, [b] => if l = Config.dcCommandLevel then (match decodeCommand c b [] with | some i => [.inr i] | none => [.inl f]) else [.inl f]
    | _, _ => [.inl f]
  | f :: g :: rest =>
    match f.dc, f.data with
    | some l, [b] =>
      if l = Config.dcCommandLevel then
        if g.dc = some Config.dcDataLevel then
          match decodeCommand c b g.data with
          | some i => .inr i :: commandsOf c rest
          | none => .inl f :: .inl g :: commandsOf c rest
        else
          match decodeCommand c b [] with
          | some i => .inr i :: commandsOf c (g :: rest)
          | none => .inl f :: commandsOf c (g :: rest)
      else .inl f :: commandsOf c (g :: rest)
    | _, _ => .inl f :: commandsOf c (g :: rest)

/-- The sum of the delays of a trace in ms, a lower bound on the time it took (R267, D21). -/
def totalDelay : List Event → Nat
  | [] => 0
  | .dly ms :: es => ms + totalDelay es
  | _ :: es => totalDelay es

/-- The delays of a trace, in order (R263). -/
def delaysOf : List Event → List Nat
  | [] => []
  | .dly ms :: es => ms :: delaysOf es
  | _ :: es => delaysOf es

end Sys2Proof.Machine
end

