-- ==== Sys2Proof/Safety.lean ====
section
/-! DEFINITION. The terms claims are stated in: the expected traces (the abbreviations CMD, DAT, POLL of
95_test_vectors.md section 0), what the environment answers, the state an undisturbed bus phase leaves, the framing
discipline of R115, the latches against the trace (R22), and the invariants of a run. -/

namespace Sys2Proof.Machine

/-! ### Expected traces -/

/-- How many `WR` a successful transfer makes: `ceil(n / CHUNK)` (R110). -/
def writesOf (chunk : Nat) (bytes : List Byte) : Nat := (bytes.length + chunk - 1) / chunk

/-- The chunks of a transfer: chunk `j` is `bytes[j*CHUNK : (j+1)*CHUNK]`, cut at the end of the list (R58, R110). -/
def chunksOf (chunk : Nat) (bytes : List Byte) : List (List Byte) :=
  (List.range (writesOf chunk bytes)).map fun j => (bytes.drop (j * chunk)).take chunk

/-- The events of a successful TRANSFER (R110). -/
def transferTrace (c : Cfg) (bytes : List Byte) : List Event :=
  .csAssert :: ((chunksOf c.chunk bytes).map (fun k => .wr k (.count k.length)) ++ [.csDeassert])

/-- `CMD(b)`: a command frame (R83). -/
def commandTrace (b : Byte) : List Event := [.dc 0#1, .csAssert, .wr [b] (.count 1), .csDeassert]

/-- An empty payload that `ELIDE_EMPTY_DATA` leaves out (R84, R112). -/
def elided (c : Cfg) (bytes : List Byte) : Bool := bytes.isEmpty && c.elideEmptyData

/-- `DAT(l)`: a data frame, or nothing where it is left out (R84). -/
def dataTrace (c : Cfg) (bytes : List Byte) : List Event :=
  if elided c bytes then [] else .dc 1#1 :: transferTrace c bytes

/-- A wire command: a command frame, then at once a data frame (R85). -/
def sendTrace (c : Cfg) (opcode : Byte) (payload : List Byte) : List Event :=
  commandTrace opcode ++ dataTrace c payload

/-- `POLL(l)`: one poll iteration that sampled `l` (R133). -/
def pollTrace (c : Cfg) (l : Level) : List Event :=
  sendTrace c c.opGetStatus c.plGetStatus ++ [.dly 20, .busy l]

/-- A wait that finds the panel idle at the first sample (R133, S5). -/
def idleTrace (c : Cfg) : List Event := pollTrace c c.busyIdleLevel ++ [.dly 100]

/-- The refresh sequence with an idle first sample (R134). -/
def refreshTrace (c : Cfg) : List Event := sendTrace c c.opRefresh c.plRefresh ++ (.dly 100 :: idleTrace c)

/-- The wire commands of a table, in list order (R132). -/
def tableTrace (c : Cfg) (table : List (Byte × List Byte)) : List Event :=
  table.flatMap fun e => sendTrace c e.1 e.2

/-- The sends of a clear plan with buffers of `n` bytes, in list order (R136). -/
def planTable (plan : List (Byte × Byte)) (n : Nat) : List (Byte × List Byte) :=
  plan.map fun e => (e.1, List.replicate n e.2)

/-- How many `WR` a wire command with this payload makes. -/
def sendWrites (c : Cfg) (payload : List Byte) : Nat := 1 + writesOf c.chunk payload

/-- How many `WR` the wire commands of a table make. -/
def tableWrites (c : Cfg) (table : List (Byte × List Byte)) : Nat := (table.map fun e => sendWrites c e.2).sum

/-- How many `WR` one poll iteration makes. -/
def pollWrites (c : Cfg) : Nat := sendWrites c c.plGetStatus

/-- How many `WR` a refresh sequence with an idle first sample makes. -/
def refreshWrites (c : Cfg) : Nat := sendWrites c c.plRefresh + pollWrites c

/-! ### The environment's answers -/

/-- The next `n` writes are taken whole. -/
def State.AllFull (s : State) (n : Nat) : Prop := ∀ j, j < n → s.wrDrawAt j = .full

/-- The next busy sample reads the idle level. -/
def State.IdleNext (s : State) : Prop := s.busyAt 0 = s.cfg.busyIdleLevel

/-! ### The state a bus phase leaves -/

/-- `s` with events added to the trace and `nw` write answers and `nb` busy levels used up; nothing else changed. -/
def State.told (s : State) (es : List Event) (nw nb : Nat) : State :=
  { s with
    trace := s.trace ++ es
    wrQueue := s.wrQueue.drop nw
    wrCount := s.wrCount + nw
    busyQueue := s.busyQueue.drop nb
    busyCount := s.busyCount + nb }

/-- The DC level after a wire command with this payload: the data level, or the command level where the data frame was
left out (R111, R112). -/
def dcAfterSend (c : Cfg) (payload : List Byte) : Level := if elided c payload then 0#1 else 1#1

/-- `s` with the two latches of the bus at these levels. -/
def State.atLines (s : State) (dc cs : Level) : State := { s with dcL := dc, csL := cs }

/-- `s` with another poll count. -/
def State.atPolls (s : State) (n : Nat) : State := { s with polls := n }

/-- `s` with another sequencer position. -/
def State.atSeq (s : State) (q : Seq) : State := { s with seq := q }

/-- `s` after an undisturbed bus phase whose last wire command had payload `last`: events and answers as in `told`, DC as
that command left it, chip-select deasserted. -/
def State.sentOn (s : State) (es : List Event) (nw nb : Nat) (last : List Byte) : State :=
  (s.told es nw nb).atLines (dcAfterSend s.cfg last) (deassertLevel s.cfg)

/-- `s` after an operation that returned `Ok` with a value: the host has it, SEQ and POLLS have ceased to exist (R9, R27). -/
def State.returnedOk (s : State) (v : Value) : State := { s with seq := .idle, polls := 0, returns := s.returns ++ [.ok v] }

/-- `s` with another protocol state. -/
def State.atSt (s : State) (st : St) : State := { s with st := st }

/-- `s` with other host buffers. -/
def State.atBufs (s : State) (b : Buffers) : State := { s with bufs := b }

/-- Two states that agree in all a pure operation may not touch: everything but what was returned to the host, the poll
count that ceases to exist with SEQ, the host's program and its buffers (R195). -/
def SameController (s t : State) : Prop :=
  t.cfg = s.cfg ∧ t.st = s.st ∧ t.rstL = s.rstL ∧ t.csL = s.csL ∧ t.dcL = s.dcL ∧ t.seq = s.seq ∧ t.trace = s.trace ∧
  t.wrQueue = s.wrQueue ∧ t.wrCount = s.wrCount ∧ t.busyQueue = s.busyQueue ∧ t.busyCount = s.busyCount ∧
  t.free = s.free ∧ t.onError = s.onError

/-! ### Framing (R115) -/

/-- Where a trace stands: outside a frame, inside one, or in violation of the discipline. -/
inductive Framing where
  | outside
  | inside
  | broken
deriving DecidableEq, Repr

/-- One event under the framing discipline of R115 with chunks of at most `chunk` bytes: DC and the reset line move only
outside a frame; a write is inside a frame and carries 1 to `chunk` bytes; assert and deassert alternate; a write that was
not taken whole ends the frame with no deassert event (log 23). -/
def frameEvent (chunk : Nat) : Framing → Event → Framing
  | .broken, _ => .broken
  | .outside, .rst _ => .outside
  | .outside, .dc _ => .outside
  | .outside, .csAssert => .inside
  | .outside, .csDeassert => .broken
  | .outside, .wr _ _ => .broken
  | .outside, .busy _ => .outside
  | .outside, .dly _ => .outside
  | .inside, .rst _ => .broken
  | .inside, .dc _ => .broken
  | .inside, .csAssert => .broken
  | .inside, .csDeassert => .outside
  | .inside, .wr bytes r =>
    if 1 ≤ bytes.length ∧ bytes.length ≤ chunk then (if takenWhole bytes.length r then .inside else .outside) else .broken
  | .inside, .busy _ => .broken
  | .inside, .dly _ => .broken

/-- Where a trace stands after all its events. -/
def framingOf (chunk : Nat) (es : List Event) : Framing := es.foldl (frameEvent chunk) .outside

/-! ### Latches against the trace (R22) -/

/-- The level the last reset-line event drove. -/
def lastRst : List Event → Option Level
  | [] => none
  | e :: es =>
    match lastRst es, e with
    | some l, _ => some l
    | none, .rst l => some l
    | none, _ => none

/-- The level the last DC event drove. -/
def lastDc : List Event → Option Level
  | [] => none
  | e :: es =>
    match lastDc es, e with
    | some l, _ => some l
    | none, .dc l => some l
    | none, _ => none

/-- What the trace says of chip-select: the level the last chip-select event drove, `none` before the first one and after a
write that was not taken whole (R110, R227). -/
def knownCs (c : Cfg) : Option Level → List Event → Option Level
  | l, [] => l
  | _, .csAssert :: es => knownCs c (some c.csAssertLevel) es
  | _, .csDeassert :: es => knownCs c (some (deassertLevel c)) es
  | l, .wr bytes r :: es => knownCs c (if takenWhole bytes.length r then l else none) es
  | l, .rst _ :: es => knownCs c l es
  | l, .dc _ :: es => knownCs c l es
  | l, .busy _ :: es => knownCs c l es
  | l, .dly _ :: es => knownCs c l es

/-- Each latch holds the level last driven on its line, as far as the trace knows it (R22). -/
def LatchesHoldTrace (s : State) : Prop :=
  (∀ l, lastRst s.trace = some l → s.rstL = l) ∧ (∀ l, lastDc s.trace = some l → s.dcL = l) ∧
  (∀ l, knownCs s.cfg none s.trace = some l → s.csL = l)

/-! ### Invariants of a run -/

/-- What follows the poll loop in each operation that waits (R132, R133, R135 to R137). -/
def afterWait (c : Cfg) : OpName → Option (List Line)
  | .waitUntilIdle => some [.delay 100]
  | .init => some [.delay 100, .setSt .ready]
  | .draw => some [.delay 100]
  | .draw2 => some [.delay 100]
  | .clear => some [.delay 100]
  | .sleep => some (.delay 100 :: (sendLines c c.opDeepSleep c.plDeepSleep ++ [.setSt .sleeping]))
  | .transfer | .sendCommand | .sendData | .send | .reset => none
  | .packMono | .getPixel | .setPixel | .packBichro | .pixelCode => none

/-- `ST` fits the running operation: INIT runs in Initializing, DRAW, DRAW2, CLEAR and SLEEP in Ready, and Initializing is
seen at no other time (R23). -/
def stFits (op : OpName) (st : St) : Prop :=
  match op with
  | .init => st = .initializing
  | .draw | .draw2 | .clear | .sleep => st = .ready
  | .transfer | .sendCommand | .sendData | .send | .reset | .waitUntilIdle => st ≠ .initializing
  | .packMono | .getPixel | .setPixel | .packBichro | .pixelCode => st ≠ .initializing

/-- SEQ between two steps: idle and `ST` not Initializing, or an operation that waits stands at the head of its poll loop
with `ST` as that operation sets it (R23, R27). -/
def SeqInv (s : State) : Prop :=
  match s.seq with
  | .idle => s.st ≠ .initializing
  | .running op lines => stFits op s.st ∧ ∃ rest, afterWait s.cfg op = some rest ∧ lines = pollLines s.cfg ++ rest

/-- Between two steps the trace keeps the framing discipline and no frame is open (R115). -/
def FramingInv (s : State) : Prop := framingOf s.cfg.chunk s.trace = .outside

/-- The poll count of a running wait is below the budget, and there is none while SEQ is idle (R27, R133). -/
def PollsInv (s : State) : Prop :=
  match s.seq with
  | .idle => s.polls = 0
  | .running _ _ => 1 ≤ s.polls ∧ budgetSpent s.cfg s.polls = false

/-- The host's buffers are in their canonical form (log 11). -/
def BuffersInv (s : State) : Prop := buffersWf s.bufs = true

/-! ### Families of instructions -/

/-- The operations that end in `ST = Fault` when their bus phase fails: INIT, DRAW, DRAW2, CLEAR, SLEEP (R138). -/
def isPanelInstr : Instr → Bool
  | .init | .sleep | .draw2 _ _ | .monoDraw _ | .bichroDraw _ | .monoClear _ | .bichroClear _ => true
  | .transfer _ | .sendCommand _ | .sendData _ | .send _ _ | .reset | .waitUntilIdle => false
  | .packMono _ | .getPixel _ _ _ | .setPixel _ _ _ _ | .packBichro _ _ => false
  | .powerSetting _ | .panelSetting _ | .pllControl _ | .vcomDataInterval _ | .boosterSoftStart _ | .tconResolution _ => false
  | .dataStart _ | .dataStart2 _ | .displayRefresh _ | .powerOff _ | .deepSleep _ | .getStatus _ => false
  | .pixelBlack | .pixelWhite | .pixelColor | .frameByte _ _ | .monoByte _ _ _ _ _ _ _ _ => false

/-- The Bus Transport operations and the wire commands, which are raw SENDs (R110 to R113, R166 to R177). -/
def isTransportInstr : Instr → Bool
  | .transfer _ | .sendCommand _ | .sendData _ | .send _ _ => true
  | .powerSetting _ | .panelSetting _ | .pllControl _ | .vcomDataInterval _ | .boosterSoftStart _ | .tconResolution _ => true
  | .dataStart _ | .dataStart2 _ | .displayRefresh _ | .powerOff _ | .deepSleep _ | .getStatus _ => true
  | .init | .sleep | .draw2 _ _ | .monoDraw _ | .bichroDraw _ | .monoClear _ | .bichroClear _ | .reset | .waitUntilIdle => false
  | .packMono _ | .getPixel _ _ _ | .setPixel _ _ _ _ | .packBichro _ _ => false
  | .pixelBlack | .pixelWhite | .pixelColor | .frameByte _ _ | .monoByte _ _ _ _ _ _ _ _ => false

/-- The pure operations: the packer's and the pixel encodings (R195). -/
def isPureInstr : Instr → Bool
  | .packMono _ | .getPixel _ _ _ | .setPixel _ _ _ _ | .packBichro _ _ => true
  | .pixelBlack | .pixelWhite | .pixelColor | .frameByte _ _ | .monoByte _ _ _ _ _ _ _ _ => true
  | .transfer _ | .sendCommand _ | .sendData _ | .send _ _ | .reset | .init | .waitUntilIdle | .sleep => false
  | .draw2 _ _ | .monoDraw _ | .bichroDraw _ | .monoClear _ | .bichroClear _ => false
  | .powerSetting _ | .panelSetting _ | .pllControl _ | .vcomDataInterval _ | .boosterSoftStart _ | .tconResolution _ => false
  | .dataStart _ | .dataStart2 _ | .displayRefresh _ | .powerOff _ | .deepSleep _ | .getStatus _ => false

/-! ### Runs -/

/-- The state of an outcome that is a next state. -/
def nextState? : Out → Option State
  | .next s => some s
  | .fault _ => none
  | .refused _ => none

/-- `n` steps from `s`, where each answers a next state. -/
def steps? : Nat → State → Option State
  | 0, s => some s
  | n + 1, s =>
    match nextState? (step s) with
    | some t => steps? n t
    | none => none

end Sys2Proof.Machine
end

