-- ==== Sys2Proof/Certificates/Slice0/Obligations.lean ====
section
/-! DEFINITION. The statements for the provers, each a claim about the machine over all its states, configurations and
answers of the environment. What a hypothesis such as `s.AllFull n` says of the environment is data of the state. -/

open Sys2Proof Sys2Proof.Machine

/-! ### Construction, fetching, encodings -/

/-- 10_state.md section 7, R31: construction with any CFG gives ST = Unpowered, an empty trace, no running operation. That
the machine's reset is construction with CFG_EX is the model's choice (log 1). -/
def Obligations.ConstructionLeavesUnpowered : Prop :=
  (∀ c : Cfg, (State.construct c).st = .unpowered ∧ (State.construct c).trace = [] ∧ (State.construct c).seq = .idle ∧
    (State.construct c).cfg = c) ∧ State.reset = State.construct exampleCfg

/-- The step runs the decoded instruction while SEQ is idle, goes on with a running operation, waits where the host starts
nothing, and refuses what is no instruction (R27, R91, R92, R260; logs 5, 7). -/
def Obligations.StepRunsDecodedInstruction : Prop :=
  (∀ (s : State) (w : Encoded) (rest : List Encoded) (i : Instr), s.seq = .idle → s.program = w :: rest →
    decode s.cfg w = .ok i → step s = exec i { s with program := rest }) ∧
  (∀ (s : State) (w : Encoded) (rest : List Encoded) (e : DecodeError), s.seq = .idle → s.program = w :: rest →
    decode s.cfg w = .error e → step s = .refused (.undecodable e)) ∧
  (∀ s : State, s.seq = .idle → s.program = [] → step s = .next s) ∧
  (∀ (s : State) (op : OpName) (lines : List Line), s.seq = .running op lines → step s = .next (advance op lines s))

/-- Words written out from the tables of R81, R86, R87, R88, R89 decode to the rows they stand for. -/
def Obligations.SampleWordsDecode : Prop :=
  decode exampleCfg (.hostop 0x04#8 [.byte 0x12#8, .buf (.lit [])]) = .ok (.send 0x12#8 (.lit [])) ∧
  decode exampleCfg (.hostop 0x11#8 []) = .ok .init ∧
  decode exampleCfg (.hostop 0x14#8 [.bit true]) = .ok (.monoClear true) ∧
  decode exampleCfg (.hostop 0x22#8 [.buf (.ref 1), .int (-1), .int 0, .bit true]) = .ok (.setPixel (.ref 1) (-1) 0 true) ∧
  decode exampleCfg (.wirecmd 0x71#8 []) = .ok (.getStatus []) ∧ decode exampleCfg (.nibble 0x4#4) = .ok .pixelColor ∧
  decode exampleCfg (.framebyte 0x43#8) = .ok (.frameByte .color .white) ∧
  decode exampleCfg (.monobyte 0xF0#8) = .ok (.monoByte true true true true false false false false)

/-- Decoding the encoding of a well-formed instruction gives it back, for every row and every operand (R81, R86 to R89). -/
def Obligations.DecodeOfEncode : Prop :=
  ∀ (c : Cfg) (i : Instr), c.opcodesDistinct = true → i.wf c = true → decode c (encode c i) = .ok i

/-- Every encoded form that decodes is the encoding of what it decodes to: no two forms are one instruction. -/
def Obligations.EncodeOfDecode : Prop :=
  ∀ (c : Cfg) (e : Encoded) (i : Instr), decode c e = .ok i → encode c i = e

/-- R91: selectors outside R81's table are refused. That a wire command with an opcode outside the command table, a nibble other
than 0x0, 0x3, 0x4 and a frame byte holding one are refused too is the model's choice, which makes instructions of these
encodings (logs 8, 9, 10); R86 and R90 say only that no row has them. Each refusal has its name. -/
def Obligations.UnlistedEncodingsRefused : Prop :=
  ∀ (s : State) (rest : List Encoded), s.seq = .idle →
    (∀ (b : Byte) (ops : List Operand),
      b ∉ [0x01#8, 0x02#8, 0x03#8, 0x04#8, 0x10#8, 0x11#8, 0x12#8, 0x13#8, 0x14#8, 0x15#8, 0x16#8, 0x20#8, 0x21#8, 0x22#8, 0x23#8] →
      s.program = .hostop b ops :: rest → step s = .refused (.undecodable (.unlistedSelector b))) ∧
    (∀ (b : Byte) (pl : List Byte), b ∉ s.cfg.opcodes →
      s.program = .wirecmd b pl :: rest → step s = .refused (.undecodable (.unlistedOpcode b))) ∧
    (∀ n : Nibble, n ∉ [0x0#4, 0x3#4, 0x4#4] →
      s.program = .nibble n :: rest → step s = .refused (.undecodable (.unusedNibble n))) ∧
    (∀ b : Byte, b ∉ [0x00#8, 0x03#8, 0x04#8, 0x30#8, 0x33#8, 0x34#8, 0x40#8, 0x43#8, 0x44#8] →
      s.program = .framebyte b :: rest → step s = .refused (.undecodable (.unusedFrameByte b)))

/-! ### Bus Transport: completion, with everything else unchanged -/

/-- R110: TRANSFER where every write is taken whole: chip-select asserted, the chunks in order, chip-select deasserted; DC is not
driven and nothing else changes. -/
def Obligations.TransferCompletes : Prop :=
  ∀ (s : State) (b : Buf), s.seq = .idle → 0 < s.cfg.chunk → s.AllFull (writesOf s.cfg.chunk (s.bytesOf b)) →
    exec (.transfer b) s = .next (((s.told (transferTrace s.cfg (s.bytesOf b)) (writesOf s.cfg.chunk (s.bytesOf b)) 0).atLines
      s.dcL (1#1 - s.cfg.csAssertLevel)).returnedOk .unit)

/-- R111, R83: SEND_COMMAND where its write is taken whole is one command frame, for any opcode byte. -/
def Obligations.SendCommandCompletes : Prop :=
  ∀ (s : State) (opcode : Byte), s.seq = .idle → 0 < s.cfg.chunk → s.AllFull 1 →
    let frame : List Event := [.dc 0#1, .csAssert, .wr [opcode] (.count 1), .csDeassert]
    exec (.sendCommand opcode) s =
      .next (((s.told frame 1 0).atLines 0#1 (1#1 - s.cfg.csAssertLevel)).returnedOk .unit) ∧
    wireStream frame = [{ dc := some 0#1, data := [opcode] }]

/-- R112, R84: SEND_DATA where every write is taken whole is one data frame: DC high, the bytes in list order in chunks of at most
CHUNK bytes, no write for an empty list; an empty list under ELIDE_EMPTY_DATA drives nothing. -/
def Obligations.SendDataCompletes : Prop :=
  ∀ (s : State) (b : Buf), s.seq = .idle → 0 < s.cfg.chunk → s.AllFull (writesOf s.cfg.chunk (s.bytesOf b)) →
    ∃ chunks : List (List Byte), chunks.flatten = s.bytesOf b ∧ (∀ k ∈ chunks, 1 ≤ k.length ∧ k.length ≤ s.cfg.chunk) ∧
      chunks.length = writesOf s.cfg.chunk (s.bytesOf b) ∧
      let frame : List Event := .dc 1#1 :: .csAssert :: (chunks.map (fun k => .wr k (.count k.length)) ++ [.csDeassert])
      exec (.sendData b) s = .next ((if s.bytesOf b = [] ∧ s.cfg.elideEmptyData = true then s else
        (s.told frame (writesOf s.cfg.chunk (s.bytesOf b)) 0).atLines 1#1 (1#1 - s.cfg.csAssertLevel)).returnedOk .unit) ∧
      wireStream frame = [{ dc := some 1#1, data := s.bytesOf b }]

/-- R113: SEND where every write is taken whole is a command frame and then a data frame; DC is left at the level of the last
frame, chip-select deasserted, and nothing else changes. -/
def Obligations.SendCompletes : Prop :=
  ∀ (s : State) (opcode : Byte) (b : Buf), s.seq = .idle → 0 < s.cfg.chunk → s.AllFull (sendWrites s.cfg (s.bytesOf b)) →
    exec (.send opcode b) s =
      .next ((s.sentOn (sendTrace s.cfg opcode (s.bytesOf b)) (sendWrites s.cfg (s.bytesOf b)) 0 (s.bytesOf b)).returnedOk .unit)

/-- R166 to R177: POWER_SETTING, PANEL_SETTING, PLL_CONTROL, VCOM_DATA_INTERVAL, BOOSTER_SOFT_START, TCON_RESOLUTION,
DATA_START, DATA_START_2, DISPLAY_REFRESH, POWER_OFF, DEEP_SLEEP, GET_STATUS, each sent with its own opcode where every write
is taken whole; of ST and the latches only DC_L and CS_L change. That the host may start one is the model's choice (log 9). -/
def Obligations.WireCommandsComplete : Prop :=
  ∀ (s : State) (pl : List Byte), s.seq = .idle → 0 < s.cfg.chunk → s.AllFull (sendWrites s.cfg pl) →
    let sent := fun opcode => Host.Outcome.next (φ := Fault) (ρ := Refusal)
      ((s.sentOn (sendTrace s.cfg opcode pl) (sendWrites s.cfg pl) 0 pl).returnedOk .unit)
    exec (.powerSetting pl) s = sent s.cfg.opPowerSetting ∧ exec (.panelSetting pl) s = sent s.cfg.opPanelSetting ∧
    exec (.pllControl pl) s = sent s.cfg.opPllControl ∧ exec (.vcomDataInterval pl) s = sent s.cfg.opVcomDataInterval ∧
    exec (.boosterSoftStart pl) s = sent s.cfg.opBoosterSoftStart ∧ exec (.tconResolution pl) s = sent s.cfg.opTconResolution ∧
    exec (.dataStart pl) s = sent s.cfg.opDataStart ∧ exec (.dataStart2 pl) s = sent s.cfg.opDataStart2 ∧
    exec (.displayRefresh pl) s = sent s.cfg.opRefresh ∧ exec (.powerOff pl) s = sent s.cfg.opPowerOff ∧
    exec (.deepSleep pl) s = sent s.cfg.opDeepSleep ∧ exec (.getStatus pl) s = sent s.cfg.opGetStatus

/-- R110, R221: the first write that is not taken whole ends TRANSFER with TransportError(off, k, r); the chunks before it are
on the wire, no later chunk is, no chip-select event follows, ST and DC are as they were. The level of chip-select is a free
value (log 4), of which nothing is said. -/
def Obligations.TransferStopsAtShortWrite : Prop :=
  ∀ (s : State) (b : Buf) (m : Nat), s.seq = .idle → 0 < s.cfg.chunk → m < writesOf s.cfg.chunk (s.bytesOf b) → s.AllFull m →
    let chunk := ((s.bytesOf b).drop (m * s.cfg.chunk)).take s.cfg.chunk
    let r := answerOf (s.wrDrawAt m) chunk.length
    (r = .fail ∨ ∃ n, r = .count n ∧ n < chunk.length) →
    ∃ t, exec (.transfer b) s = .next t ∧
      t.returns = s.returns ++ [.error (.transport (m * s.cfg.chunk) chunk.length r)] ∧
      t.trace = s.trace ++ .csAssert :: (((chunksOf s.cfg.chunk (s.bytesOf b)).take m).map (fun k => .wr k (.count k.length)) ++
        [.wr chunk r]) ∧
      t.st = s.st ∧ t.dcL = s.dcL ∧ t.rstL = s.rstL ∧ t.cfg = s.cfg ∧ t.bufs = s.bufs ∧ t.seq = .idle ∧
      t.wrCount = s.wrCount + m + 1 ∧ t.busyCount = s.busyCount

/-- R111 to R113, R166 to R177, R22, R23, R138: what a Bus Transport operation or a wire command leaves unchanged, whatever the
environment answers: ST, RST_L, CFG, the buffers, the busy line's answers; TRANSFER leaves DC_L too; the trace only grows and
no operation stays running. -/
def Obligations.TransportFrame : Prop :=
  ∀ (i : Instr) (s t : State), isTransportInstr i = true → exec i s = .next t →
    t.st = s.st ∧ t.rstL = s.rstL ∧ t.cfg = s.cfg ∧ t.bufs = s.bufs ∧ t.onError = s.onError ∧ t.busyQueue = s.busyQueue ∧
    t.busyCount = s.busyCount ∧ t.seq = .idle ∧ s.trace <+: t.trace ∧ (∃ r, t.returns = s.returns ++ [r]) ∧
    ((∃ b, i = .transfer b) → t.dcL = s.dcL)

/-- R83 to R85, R8: what a completed SEND puts on the wire is a command frame under DC low and a data frame under DC high with
the whole payload, whatever CHUNK is; an empty payload under ELIDE_EMPTY_DATA leaves the data frame out. -/
def Obligations.SendWireStream : Prop :=
  ∀ (s : State) (opcode : Byte) (b : Buf), s.seq = .idle → 0 < s.cfg.chunk → s.AllFull (sendWrites s.cfg (s.bytesOf b)) →
    ∃ t es, exec (.send opcode b) s = .next t ∧ t.trace = s.trace ++ es ∧
      wireStream es = { dc := some 0#1, data := [opcode] } ::
        (if s.bytesOf b = [] ∧ s.cfg.elideEmptyData = true then [] else [{ dc := some 1#1, data := s.bytesOf b }])

/-- R116: the Bus Transport is stateless apart from CS_L and DC_L: two starts with the same operands, the same CFG and the same
answers append the same events and return the same, whatever ST, the latches, the trace and the earlier results are. -/
def Obligations.TransportIsStateless : Prop :=
  ∀ (i : Instr) (s s' t : State), isTransportInstr i = true → s'.seq = .idle → s'.cfg = s.cfg → s'.bufs = s.bufs →
    (∀ j, s'.wrDrawAt j = s.wrDrawAt j) → exec i s = .next t →
    ∃ es r t', t.trace = s.trace ++ es ∧ t.returns = s.returns ++ [r] ∧ exec i s' = .next t' ∧
      t'.trace = s'.trace ++ es ∧ t'.returns = s'.returns ++ [r] ∧ t'.st = s'.st

/-! ### Panel State Machine -/

/-- R131: RESET, selector 0x10, in every protocol state completes with Ok: six events, RST_L high, ST = Reset; CS_L, DC_L and
all the rest stay. -/
def Obligations.ResetCompletes : Prop :=
  (∀ c : Cfg, decode c (.hostop 0x10#8 []) = .ok .reset) ∧
  ∀ s : State, s.seq = .idle →
    exec .reset s = .next ({ s with
      rstL := 1#1, st := .reset, polls := 0, returns := s.returns ++ [.ok .unit],
      trace := s.trace ++ [.rst 1#1, .dly 200, .rst 0#1, .dly 2, .rst 1#1, .dly 200] })

/-- R132: INIT in Reset, where every write is taken whole and the first sample is idle, sends the table in list order, waits, and
ends with ST = Ready. -/
def Obligations.InitCompletes : Prop :=
  ∀ s : State, s.seq = .idle → 0 < s.cfg.chunk → s.st = .reset →
    s.AllFull (tableWrites s.cfg s.cfg.initSeq + pollWrites s.cfg) → s.IdleNext →
    exec .init s = .next ((((s.sentOn (tableTrace s.cfg s.cfg.initSeq ++ idleTrace s.cfg)
      (tableWrites s.cfg s.cfg.initSeq + pollWrites s.cfg) 1 s.cfg.plGetStatus)).atSt .ready).returnedOk .unit)

/-- R133: WAIT_UNTIL_IDLE, where every write is taken whole and the first sample is idle, makes exactly one poll iteration and the
settle delay (S5), in any ST, which stays. -/
def Obligations.WaitCompletesWhenIdleAtOnce : Prop :=
  ∀ s : State, s.seq = .idle → 0 < s.cfg.chunk → s.AllFull (pollWrites s.cfg) → s.IdleNext →
    exec .waitUntilIdle s = .next ((s.sentOn (idleTrace s.cfg) (pollWrites s.cfg) 1 s.cfg.plGetStatus).returnedOk .unit)

/-- R137: SLEEP in Ready, where every write is taken whole and the first sample is idle: power-off, idle wait, deep-sleep, no wait
after it, ST = Sleeping. -/
def Obligations.SleepCompletes : Prop :=
  ∀ s : State, s.seq = .idle → 0 < s.cfg.chunk → s.st = .ready →
    s.AllFull (sendWrites s.cfg s.cfg.plPowerOff + pollWrites s.cfg + sendWrites s.cfg s.cfg.plDeepSleep) → s.IdleNext →
    exec .sleep s = .next ((((s.sentOn (sendTrace s.cfg s.cfg.opPowerOff s.cfg.plPowerOff ++ idleTrace s.cfg ++
        sendTrace s.cfg s.cfg.opDeepSleep s.cfg.plDeepSleep)
      (sendWrites s.cfg s.cfg.plPowerOff + pollWrites s.cfg + sendWrites s.cfg s.cfg.plDeepSleep) 1
      s.cfg.plDeepSleep)).atSt .sleeping).returnedOk .unit)

/-- R133: a wait where every write is taken whole, whose first `p` samples are not idle and whose next one is, makes `p + 1` poll iterations, one a step, and then
settles, as long as the budget lasts; ST is not written. -/
def Obligations.WaitPollsUntilIdle : Prop :=
  ∀ (s : State) (p : Nat), s.seq = .idle → 0 < s.cfg.chunk → s.AllFull ((p + 1) * pollWrites s.cfg) →
    (∀ j, j < p → s.busyAt j ≠ s.cfg.busyIdleLevel) → s.busyAt p = s.cfg.busyIdleLevel →
    (∀ b, s.cfg.pollBudget = some b → p < b) →
    ∃ t, exec .waitUntilIdle s = .next t ∧ steps? p t = some ((s.sentOn
      ((List.range (p + 1)).flatMap (fun j => pollTrace s.cfg (s.busyAt j)) ++ [.dly 100])
      ((p + 1) * pollWrites s.cfg) (p + 1) s.cfg.plGetStatus).returnedOk .unit)

/-- R133, R223: with POLL_BUDGET = some B a wait where every write is taken whole and whose first B samples are not idle ends after exactly B poll iterations in
BusyTimeout(B), with no settle delay; started by the host it leaves ST alone. That one step makes one poll iteration is
the model's reading of R27 (log 5). -/
def Obligations.WaitTimesOutAtBudget : Prop :=
  ∀ (s : State) (b : Nat), s.seq = .idle → 0 < s.cfg.chunk → s.cfg.pollBudget = some (b + 1) →
    s.AllFull ((b + 1) * pollWrites s.cfg) → (∀ j, j < b + 1 → s.busyAt j ≠ s.cfg.busyIdleLevel) →
    ∃ t u, exec .waitUntilIdle s = .next t ∧ steps? b t = some u ∧
      u.returns = s.returns ++ [.error (.busyTimeout (b + 1))] ∧ u.seq = .idle ∧ u.st = s.st ∧ u.rstL = s.rstL ∧
      u.bufs = s.bufs ∧ u.cfg = s.cfg ∧
      u.trace = s.trace ++ (List.range (b + 1)).flatMap (fun j => pollTrace s.cfg (s.busyAt j))

/-- R238: with POLL_BUDGET = none a wait goes on for as long as every write is taken whole and no sample is idle: after `n` further steps it has made `n + 1`
poll iterations and has not returned. One iteration a step and the form of SEQ are the model's reading of R27 (logs 5, 6). -/
def Obligations.WaitHangsWithoutBudget : Prop :=
  ∀ (s : State) (n : Nat), s.seq = .idle → 0 < s.cfg.chunk → s.cfg.pollBudget = none →
    s.AllFull ((n + 1) * pollWrites s.cfg) → (∀ j, j < n + 1 → s.busyAt j ≠ s.cfg.busyIdleLevel) →
    ∃ t u, exec .waitUntilIdle s = .next t ∧ steps? n t = some u ∧ u.returns = s.returns ∧ u.polls = n + 1 ∧
      u.seq = .running .waitUntilIdle (pollLines s.cfg ++ [.delay 100]) ∧
      u.trace = s.trace ++ (List.range (n + 1)).flatMap (fun j => pollTrace s.cfg (s.busyAt j))

/-- R130, R224: INIT outside Reset, and SLEEP, DRAW, DRAW2, CLEAR outside Ready with operands of the right size, raise
InvalidState(ST): no event, no latch and no protocol state changes. -/
def Obligations.AdmissionRaisesInvalidState : Prop :=
  ∀ s : State, s.seq = .idle →
    let raised := fun (i : Instr) => ∃ t, exec i s = .next t ∧ t.returns = s.returns ++ [.error (.invalidState s.st)] ∧
      SameController s t ∧ t.bufs = s.bufs
    (s.st ≠ .reset → raised .init) ∧
    (s.st ≠ .ready → raised .sleep ∧
      (s.cfg.variant = .mono → (∀ black, raised (.monoClear black)) ∧
        (∀ b, (s.bytesOf b).length = s.cfg.planeLen → raised (.monoDraw b))) ∧
      (s.cfg.variant = .bichro → (∀ black, raised (.bichroClear black)) ∧
        (∀ b, (s.bytesOf b).length = s.cfg.planeLen → raised (.bichroDraw b)) ∧
        (∀ b k, (s.bytesOf b).length = s.cfg.planeLen → (s.bytesOf k).length = s.cfg.planeLen → raised (.draw2 b k))))

/-- R138, R227: when an error of the bus phase ends INIT, DRAW, DRAW2, CLEAR or SLEEP, at once or in a later step of its wait,
ST is Fault and what was on the trace stays; an error before the bus phase changes neither ST nor the trace. -/
def Obligations.PanelFailureLeadsToFault : Prop :=
  (∀ (i : Instr) (s t : State) (e : Err), isPanelInstr i = true → exec i s = .next t → t.returns = s.returns ++ [.error e] →
    (busPhase e = true → t.st = .fault ∧ s.trace <+: t.trace) ∧ (busPhase e = false → t.st = s.st ∧ t.trace = s.trace)) ∧
  (∀ (op : OpName) (lines : List Line) (s t : State) (e : Err), s.seq = .running op lines → isPanelOp op = true →
    step s = .next t → t.returns = s.returns ++ [.error e] → t.st = .fault ∧ s.trace <+: t.trace)

/-- R23, R130, R138, R237: Sleeping and Fault are left by RESET alone. -/
def Obligations.OnlyResetLeavesSleepingAndFault : Prop :=
  ∀ s t : State, SeqInv s → (s.st = .sleeping ∨ s.st = .fault) → step s = .next t → t.st ≠ s.st →
    t.st = .reset ∧ ∃ w rest, s.seq = .idle ∧ s.program = w :: rest ∧ decode s.cfg w = .ok .reset

/-- R22, R131: RST_L is written by RESET alone. -/
def Obligations.OnlyResetDrivesResetLine : Prop :=
  ∀ s t : State, SeqInv s → step s = .next t → t.rstL ≠ s.rstL →
    ∃ w rest, s.seq = .idle ∧ s.program = w :: rest ∧ decode s.cfg w = .ok .reset

/-- R21, R22, R23, R133, R135 to R138: what INIT, WAIT_UNTIL_IDLE, SLEEP, DRAW, DRAW2 and CLEAR leave unchanged, whatever the
environment answers, whether they end or go on polling: RST_L, CFG, the buffers; at most one result is returned; ST is written
only as these rules say: a wait leaves it, a draw or clear leaves it or ends in Fault. -/
def Obligations.PanelFrame : Prop :=
  ∀ (i : Instr) (s t : State), isPanelInstr i = true ∨ i = .waitUntilIdle → exec i s = .next t →
    t.rstL = s.rstL ∧ t.cfg = s.cfg ∧ t.bufs = s.bufs ∧ t.onError = s.onError ∧ s.trace <+: t.trace ∧
    (t.returns = s.returns ∨ ∃ r, t.returns = s.returns ++ [r]) ∧
    (i = .waitUntilIdle → t.st = s.st) ∧ (i = .init → t.st = s.st ∨ t.st = .initializing ∨ t.st = .ready ∨ t.st = .fault) ∧
    (i = .sleep → t.st = s.st ∨ t.st = .sleeping ∨ t.st = .fault) ∧
    (isPanelInstr i = true → i ≠ .init → i ≠ .sleep → t.st = s.st ∨ t.st = .fault)

/-! ### Panel Driver Variants -/

/-- R161, R135, R134: MONO.DRAW of PLANE_LEN bytes in Ready, where every write is taken whole and the first sample is idle, sends
the buffer as it is, refreshes, and stays in Ready. -/
def Obligations.MonoDrawCompletes : Prop :=
  ∀ (s : State) (b : Buf), s.seq = .idle → 0 < s.cfg.chunk → s.cfg.variant = .mono → s.st = .ready →
    (s.bytesOf b).length = s.cfg.planeLen → s.AllFull (sendWrites s.cfg (s.bytesOf b) + refreshWrites s.cfg) → s.IdleNext →
    exec (.monoDraw b) s = .next ((s.sentOn (sendTrace s.cfg s.cfg.opDataStart (s.bytesOf b) ++ refreshTrace s.cfg)
      (sendWrites s.cfg (s.bytesOf b) + refreshWrites s.cfg) 1 s.cfg.plGetStatus).returnedOk .unit)

/-- R163, R54: DRAW2 of two planes of PLANE_LEN bytes in Ready, where every write is taken whole and the first sample is idle,
sends the packed frame of FRAME_LEN bytes, refreshes, and stays in Ready. -/
def Obligations.DrawTwoPlanesCompletes : Prop :=
  ∀ (s : State) (b k : Buf), s.seq = .idle → 0 < s.cfg.chunk → s.cfg.variant = .bichro → s.st = .ready →
    (s.bytesOf b).length = s.cfg.planeLen → (s.bytesOf k).length = s.cfg.planeLen →
    let frame := packBichro s.cfg (s.bytesOf b) (s.bytesOf k)
    s.AllFull (sendWrites s.cfg frame + refreshWrites s.cfg) → s.IdleNext →
    frame.length = s.cfg.frameLen ∧
    exec (.draw2 b k) s = .next ((s.sentOn (sendTrace s.cfg s.cfg.opDataStart frame ++ refreshTrace s.cfg)
      (sendWrites s.cfg frame + refreshWrites s.cfg) 1 s.cfg.plGetStatus).returnedOk .unit)

/-- R164: BICHRO.DRAW of PLANE_LEN bytes in Ready, where every write is taken whole and the first sample is idle, draws the buffer
with the zero plane for colour; every byte of its frame is 0x00, 0x03, 0x30 or 0x33. -/
def Obligations.BichroDrawCompletes : Prop :=
  ∀ (s : State) (b : Buf), s.seq = .idle → 0 < s.cfg.chunk → s.cfg.variant = .bichro → s.st = .ready →
    (s.bytesOf b).length = s.cfg.planeLen →
    let frame := packBichro s.cfg (s.bytesOf b) (List.replicate s.cfg.planeLen 0x00#8)
    s.AllFull (sendWrites s.cfg frame + refreshWrites s.cfg) → s.IdleNext →
    (∀ x ∈ frame, x ∈ [0x00#8, 0x03#8, 0x30#8, 0x33#8]) ∧
    exec (.bichroDraw b) s = .next ((s.sentOn (sendTrace s.cfg s.cfg.opDataStart frame ++ refreshTrace s.cfg)
      (sendWrites s.cfg frame + refreshWrites s.cfg) 1 s.cfg.plGetStatus).returnedOk .unit)

/-- R162, R136: MONO.CLEAR in Ready, where every write is taken whole and the first sample is idle, sends a PLANE_LEN buffer of
each fill of its plan, in plan order, and refreshes. -/
def Obligations.MonoClearCompletes : Prop :=
  ∀ (s : State) (black : Bool), s.seq = .idle → 0 < s.cfg.chunk → s.cfg.variant = .mono → s.st = .ready →
    let table := planTable (if black then s.cfg.monoClearBlack else s.cfg.monoClearWhite) s.cfg.planeLen
    s.AllFull (tableWrites s.cfg table + refreshWrites s.cfg) → s.IdleNext →
    exec (.monoClear black) s = .next ((s.sentOn (tableTrace s.cfg table ++ refreshTrace s.cfg)
      (tableWrites s.cfg table + refreshWrites s.cfg) 1 s.cfg.plGetStatus).returnedOk .unit)

/-- R165: BICHRO.CLEAR in Ready, where every write is taken whole and the first sample is idle, sends one buffer of
BICHRO_CLEAR_LEN bytes of 0x00 (black) or 0x33 (white) and refreshes, whatever that length is. -/
def Obligations.BichroClearCompletes : Prop :=
  ∀ (s : State) (black : Bool), s.seq = .idle → 0 < s.cfg.chunk → s.cfg.variant = .bichro → s.st = .ready →
    let buffer := List.replicate s.cfg.bichroClearLen (if black then 0x00#8 else 0x33#8)
    s.AllFull (sendWrites s.cfg buffer + refreshWrites s.cfg) → s.IdleNext →
    exec (.bichroClear black) s = .next ((s.sentOn (sendTrace s.cfg s.cfg.opDataStart buffer ++ refreshTrace s.cfg)
      (sendWrites s.cfg buffer + refreshWrites s.cfg) 1 s.cfg.plGetStatus).returnedOk .unit)

/-- R222, R226, R58: a wrong size raises InvalidBufferSize(got, wanted) before the bus and before the state check, whatever ST
is; DRAW2 compares its planes with each other first. Nothing else changes. -/
def Obligations.SizeErrorsBeforeTheBus : Prop :=
  ∀ s : State, s.seq = .idle →
    let raised := fun (i : Instr) (got wanted : Nat) => ∃ t, exec i s = .next t ∧
      t.returns = s.returns ++ [.error (.invalidBufferSize got wanted)] ∧ SameController s t ∧ t.bufs = s.bufs
    (∀ b, s.cfg.variant = .mono → (s.bytesOf b).length ≠ s.cfg.planeLen →
      raised (.monoDraw b) (s.bytesOf b).length s.cfg.planeLen) ∧
    (∀ b, s.cfg.variant = .bichro → (s.bytesOf b).length ≠ s.cfg.planeLen →
      raised (.bichroDraw b) (s.bytesOf b).length s.cfg.planeLen) ∧
    (∀ b k, s.cfg.variant = .bichro → (s.bytesOf b).length ≠ (s.bytesOf k).length →
      raised (.draw2 b k) (s.bytesOf b).length (s.bytesOf k).length) ∧
    (∀ b k, s.cfg.variant = .bichro → (s.bytesOf b).length = (s.bytesOf k).length → (s.bytesOf b).length ≠ s.cfg.planeLen →
      raised (.draw2 b k) (s.bytesOf b).length s.cfg.planeLen) ∧
    (∀ b k, (s.bytesOf b).length ≠ (s.bytesOf k).length →
      raised (.packBichro b k) (s.bytesOf b).length (s.bytesOf k).length) ∧
    (∀ b x y, (s.bytesOf b).length ≠ s.cfg.planeLen → raised (.getPixel b x y) (s.bytesOf b).length s.cfg.planeLen)

/-- R178, S4: for either variant and a well-formed CFG the first buffers CLEAR(true) and CLEAR(false) send have the same length
and differ in every byte: 0x00 against 0xFF on Mono, 0x00 against 0x33 on Bichro. The length is PLANE_LEN on Mono (R162) and
BICHRO_CLEAR_LEN on Bichro (R165). A CLEAR in Ready is followed to its end where the first sample is idle and `n` writes, enough
for it, are taken whole. -/
def Obligations.ClearBuffersDiffer : Prop :=
  ∀ c : Cfg, c.wf = true → ∃ (n : Nat) (x y : Byte),
    let len := match c.variant with | .mono => c.planeLen | .bichro => c.bichroClearLen
    (c.variant = .mono → (x = 0x00#8 ∧ y = 0xFF#8) ∨ (x = 0xFF#8 ∧ y = 0x00#8)) ∧
    (c.variant = .bichro → x = 0x00#8 ∧ y = 0x33#8) ∧
    (∀ i, i < len → (List.replicate len x)[i]? ≠ (List.replicate len y)[i]?) ∧
    ∀ (s : State) (black : Bool), s.cfg = c → s.seq = .idle → s.st = .ready → s.AllFull n → s.IdleNext →
      ∃ t rest, exec (match c.variant with | .mono => .monoClear black | .bichro => .bichroClear black) s = .next t ∧
        t.trace = s.trace ++ sendTrace c c.opDataStart (List.replicate len (if black then x else y)) ++ rest

/-- R132, R86, R166 to R171: where every write is taken whole and the first sample is idle, the wire commands read off what INIT
puts on the wire are its table's entries, in list order, each under the name its opcode has in the command table, and one
GET_STATUS. -/
def Obligations.InitSendsItsTable : Prop :=
  ∀ (s : State) (table : List Instr), s.seq = .idle → 0 < s.cfg.chunk → s.st = .reset → s.cfg.opcodesDistinct = true →
    s.AllFull (tableWrites s.cfg s.cfg.initSeq + pollWrites s.cfg) → s.IdleNext →
    s.cfg.initSeq.map (fun e => decodeCommand s.cfg e.1 e.2) = table.map some →
    ∃ t es, exec .init s = .next t ∧ t.trace = s.trace ++ es ∧
      commandsOf s.cfg (wireStream es) = (table ++ [Instr.getStatus s.cfg.plGetStatus]).map Sum.inr

/-- R267, R263: the delays of each operation where every write is taken whole and the first sample is idle: RESET 402 ms,
WAIT_UNTIL_IDLE, INIT and SLEEP 120 ms, DRAW, DRAW2 and CLEAR 220 ms, the Bus Transport operations none. -/
def Obligations.DelaySums : Prop :=
  ∀ (s : State), s.seq = .idle → 0 < s.cfg.chunk →
    let takes := fun (i : Instr) (ms : List Nat) => ∃ t es, exec i s = .next t ∧ t.trace = s.trace ++ es ∧ delaysOf es = ms
    takes .reset [200, 2, 200] ∧
    (∀ b, s.AllFull (writesOf s.cfg.chunk (s.bytesOf b)) → takes (.transfer b) [] ∧ takes (.sendData b) []) ∧
    (∀ op b, s.AllFull (sendWrites s.cfg (s.bytesOf b)) → takes (.sendCommand op) [] ∧ takes (.send op b) []) ∧
    (s.IdleNext →
      (s.AllFull (pollWrites s.cfg) → takes .waitUntilIdle [20, 100]) ∧
      (s.st = .reset → s.AllFull (tableWrites s.cfg s.cfg.initSeq + pollWrites s.cfg) → takes .init [20, 100]) ∧
      (s.st = .ready →
        (s.AllFull (sendWrites s.cfg s.cfg.plPowerOff + pollWrites s.cfg + sendWrites s.cfg s.cfg.plDeepSleep) →
          takes .sleep [20, 100]) ∧
        (s.cfg.variant = .mono →
          (∀ b, (s.bytesOf b).length = s.cfg.planeLen →
            s.AllFull (sendWrites s.cfg (s.bytesOf b) + refreshWrites s.cfg) → takes (.monoDraw b) [100, 20, 100]) ∧
          (∀ black, s.AllFull (tableWrites s.cfg (planTable (s.cfg.monoClearSeq black) s.cfg.planeLen) + refreshWrites s.cfg) →
            takes (.monoClear black) [100, 20, 100])) ∧
        (s.cfg.variant = .bichro →
          (∀ b k, (s.bytesOf b).length = s.cfg.planeLen → (s.bytesOf k).length = s.cfg.planeLen →
            s.AllFull (sendWrites s.cfg (packBichro s.cfg (s.bytesOf b) (s.bytesOf k)) + refreshWrites s.cfg) →
            takes (.draw2 b k) [100, 20, 100]) ∧
          (∀ b, (s.bytesOf b).length = s.cfg.planeLen →
            s.AllFull (sendWrites s.cfg (packBichro s.cfg (s.bytesOf b) s.cfg.zeroPlane) + refreshWrites s.cfg) →
            takes (.bichroDraw b) [100, 20, 100]) ∧
          (∀ black, s.AllFull (sendWrites s.cfg (List.replicate s.cfg.bichroClearLen (bichroFill black)) +
            refreshWrites s.cfg) → takes (.bichroClear black) [100, 20, 100]))))

/-! ### Bitplane Packer and raster operations -/

/-- R190, R197, R51: PACK_MONO on a pixel function defined on its domain gives PLANE_LEN bytes; bit 7-k of byte bx + STRIDE*y is
the pixel (8*bx + k, y), padding columns included. Nothing else changes. -/
def Obligations.PackMonoCompletes : Prop :=
  ∀ (s : State) (px : PixelMap), s.seq = .idle →
    (∀ x y, x < 8 * s.cfg.stride → y < s.cfg.h → ∃ v, px.at? x y = some v) →
    ∃ out, exec (.packMono px) s = .next (s.returnedOk (.bytes out)) ∧ out.length = s.cfg.planeLen ∧
      ∀ bx y k, bx < s.cfg.stride → y < s.cfg.h → k < 8 →
        px.at? (8 * bx + k) y = some ((out.getD (bx + s.cfg.stride * y) 0x00#8).getLsbD (7 - k))

/-- R191, R51: GET_PIXEL inside the buffer, padding columns included, gives bit 7-(x % 8) of byte x/8 + STRIDE*y. -/
def Obligations.GetPixelCompletes : Prop :=
  ∀ (s : State) (b : Buf) (x y : Nat), s.seq = .idle → (s.bytesOf b).length = s.cfg.planeLen → x < 8 * s.cfg.stride →
    y < s.cfg.h →
    exec (.getPixel b x y) s =
      .next (s.returnedOk (.bit (((s.bytesOf b).getD (x / 8 + s.cfg.stride * y) 0x00#8).getLsbD (7 - x % 8))))

/-- R192, R52: SET_PIXEL on a Surface sets bit 7-(x % 8) of byte x/8 + (W/8)*y to `v` and changes no other bit of any byte, in
place for a host buffer and in the returned list for a list handed in by value (log 11). -/
def Obligations.SetPixelCompletes : Prop :=
  ∀ (s : State) (b : Buf) (x y : Nat) (v : Bool), s.seq = .idle → s.cfg.w % 8 = 0 → x < s.cfg.w → y < s.cfg.h →
    (s.bytesOf b).length = s.cfg.w * s.cfg.h / 8 →
    ∃ out : List Byte, out.length = (s.bytesOf b).length ∧
      (∀ i k, k < 8 → (out.getD i 0x00#8).getLsbD k =
        if i = x / 8 + s.cfg.w / 8 * y ∧ k = 7 - x % 8 then v else ((s.bytesOf b).getD i 0x00#8).getLsbD k) ∧
      exec (.setPixel b x y v) s = match b with
        | .lit _ => .next (s.returnedOk (.bytes out))
        | .ref id => .next ((s.atBufs (writeBuffers s.bufs id out)).returnedOk .unit)

/-- R194, R54, R197: PACK_BICHRO on planes of equal length gives four frame bytes a plane byte; frame byte 4*i + k holds the codes
of bits 7-2k and 6-2k of plane bytes i, and depends on nothing else. Nothing else changes. -/
def Obligations.PackBichroCompletes : Prop :=
  ∀ (s : State) (b k : Buf), s.seq = .idle → (s.bytesOf b).length = (s.bytesOf k).length →
    ∃ out, exec (.packBichro b k) s = .next (s.returnedOk (.bytes out)) ∧ out.length = 4 * (s.bytesOf b).length ∧
      ∀ i j (p q : Byte), j < 4 → (s.bytesOf b)[i]? = some p → (s.bytesOf k)[i]? = some q →
        out[4 * i + j]? = some (frameByteOf (s.cfg.code (p.getLsbD (7 - 2 * j)) (q.getLsbD (7 - 2 * j)))
          (s.cfg.code (p.getLsbD (6 - 2 * j)) (q.getLsbD (6 - 2 * j))))

/-- R87, R88, R89: the pixel encodings give the nibble, the frame byte and the monochrome byte of the tables, and change nothing
else. That they run as operations that return what they encode is the model's choice (log 10). -/
def Obligations.PixelEncodingsComplete : Prop :=
  ∀ s : State, s.seq = .idle →
    exec .pixelBlack s = .next (s.returnedOk (.code 0x0#4)) ∧ exec .pixelWhite s = .next (s.returnedOk (.code 0x3#4)) ∧
    exec .pixelColor s = .next (s.returnedOk (.code 0x4#4)) ∧
    (∀ l r, ∃ b : Byte, exec (.frameByte l r) s = .next (s.returnedOk (.byte b)) ∧ b.extractLsb' 4 4 = l.nibble ∧
      b.extractLsb' 0 4 = r.nibble) ∧
    (∀ a b c d e f g h, ∃ out : Byte, exec (.monoByte a b c d e f g h) s = .next (s.returnedOk (.byte out)) ∧
      out.getLsbD 7 = a ∧ out.getLsbD 6 = b ∧ out.getLsbD 5 = c ∧ out.getLsbD 4 = d ∧ out.getLsbD 3 = e ∧
      out.getLsbD 2 = f ∧ out.getLsbD 1 = g ∧ out.getLsbD 0 = h)

/-- R191, R192, R225: GET_PIXEL outside the buffer and SET_PIXEL at or beyond the right or lower edge raise OutOfRange(x, y) and
change nothing; SET_PIXEL with a negative coordinate is Ok and changes nothing, also where the other coordinate is too large; that a buffer
handed in by value is then returned as it came is the model's form of the result (log 11). -/
def Obligations.PixelCoordinatesOutside : Prop :=
  ∀ (s : State) (b : Buf) (x y : Int), s.seq = .idle →
    ((s.bytesOf b).length = s.cfg.planeLen → (x < 0 ∨ y < 0 ∨ 8 * (s.cfg.stride : Int) ≤ x ∨ (s.cfg.h : Int) ≤ y) →
      ∃ t, exec (.getPixel b x y) s = .next t ∧ t.returns = s.returns ++ [.error (.outOfRange x y)] ∧ SameController s t ∧
        t.bufs = s.bufs) ∧
    (∀ v, s.cfg.w % 8 = 0 → (x < 0 ∨ y < 0) →
      exec (.setPixel b x y v) s = .next (s.returnedOk (match b with | .lit l => .bytes l | .ref _ => .unit))) ∧
    (∀ v, s.cfg.w % 8 = 0 → 0 ≤ x → 0 ≤ y → ((s.cfg.w : Int) ≤ x ∨ (s.cfg.h : Int) ≤ y) →
      ∃ t, exec (.setPixel b x y v) s = .next t ∧ t.returns = s.returns ++ [.error (.outOfRange x y)] ∧ SameController s t ∧
        t.bufs = s.bufs)

/-- R193: CODE(b, c): colour over black, black over white, for either black-plane polarity. -/
def Obligations.CodePriority : Prop :=
  ∀ (c : Cfg) (b : Bool), (c.code b true).nibble = 0x4#4 ∧ (c.code c.blackInkBit false).nibble = 0x0#4 ∧
    (c.code (!c.blackInkBit) false).nibble = 0x3#4

/-- R89, R90: the byte of two codes has the left one in bits 7 to 4 and the right one in bits 3 to 0, and the values that occur
are exactly the nine of R89. -/
def Obligations.FrameByteValues : Prop :=
  (∀ l r : PixelCode, frameByteOf l r = l.nibble ++ r.nibble) ∧
  (∀ x : Byte, (∃ l r : PixelCode, frameByteOf l r = x) ↔
    x ∈ [0x00#8, 0x03#8, 0x04#8, 0x30#8, 0x33#8, 0x34#8, 0x40#8, 0x43#8, 0x44#8])

/-- R196 (a): unpacking a packed raster gives every pixel back, for every width and for the padding columns too. -/
def Obligations.PackUnpackRoundTrip : Prop :=
  ∀ (c : Cfg) (f : Nat → Nat → Bool) (x y : Nat), x < 8 * c.stride → y < c.h →
    (packMono c f).length = c.planeLen ∧ pixelAt c (packMono c f) x y = f x y

/-- R196 (b): with an all-zero colour plane no frame byte holds a colour code, for any black plane. -/
def Obligations.ZeroColourPlaneHasNoColour : Prop :=
  ∀ (c : Cfg) (b k : List Byte), (∀ x ∈ k, x = 0x00#8) → ∀ x ∈ packBichro c b k, x ∈ [0x00#8, 0x03#8, 0x30#8, 0x33#8]

/-- R195: a pure operation that answers leaves the whole controller, the trace and the environment alone; only SET_PIXEL on a
host buffer changes a buffer, and of that buffer at most one byte; and what it returns and stores depends on its operands and
CFG alone: ST, the latches, the trace, what was returned before and the environment's answers do not enter. R195 names the four
packer operations; the pixel encodings as operations are the model's choice (log 10), and so is POLLS = 0 (log 21). -/
def Obligations.PureOperationsArePure : Prop :=
  (∀ (i : Instr) (s t : State), isPureInstr i = true → BuffersInv s → exec i s = .next t →
    SameController s t ∧ t.polls = 0 ∧ (∃ r, t.returns = s.returns ++ [r]) ∧
    (∀ id n, (∀ x y v, i = .setPixel (.ref id) x y v → n ≠ s.cfg.surfaceIndex x.toNat y.toNat) →
      t.bufferByte? id n = s.bufferByte? id n)) ∧
  (∀ (i : Instr) (s s' t : State), isPureInstr i = true → s'.seq = .idle → s'.cfg = s.cfg → s'.bufs = s.bufs →
    exec i s = .next t → ∃ r t', t.returns = s.returns ++ [r] ∧ exec i s' = .next t' ∧ t'.returns = s'.returns ++ [r] ∧
      t'.bufs = t.bufs)

/-! ### Refusals -/

/-- R264, R96, R81, R190, R52, R198, D5: what has no meaning is refused: any start while an operation runs (log 18); each of the
five rows of the other variant (log 17; R96 itself refuses DRAW2); PACK_MONO on a pixel function with a gap; SET_PIXEL where 8
does not divide W, and on a buffer too short for its pixel (log 12); a transfer under CHUNK = 0 (log 16). -/
def Obligations.RefusedStarts : Prop :=
  (∀ (i : Instr) (s : State), s.seq ≠ .idle → exec i s = .refused .reentrant) ∧
  (∀ s : State, s.seq = .idle →
    (s.cfg.variant = .mono → ∀ b k, exec (.draw2 b k) s = .refused .wrongVariant ∧ exec (.bichroDraw b) s = .refused .wrongVariant) ∧
    (s.cfg.variant = .mono → ∀ black, exec (.bichroClear black) s = .refused .wrongVariant) ∧
    (s.cfg.variant = .bichro → ∀ b black, exec (.monoDraw b) s = .refused .wrongVariant ∧
      exec (.monoClear black) s = .refused .wrongVariant) ∧
    (∀ px x y, x < 8 * s.cfg.stride → y < s.cfg.h → px.at? x y = none → exec (.packMono px) s = .refused .pixelUndefined) ∧
    (s.cfg.w % 8 ≠ 0 → ∀ b x y v, exec (.setPixel b x y v) s = .refused .surfaceWidth) ∧
    (s.cfg.w % 8 = 0 → ∀ b (x y : Int) v, 0 ≤ x → 0 ≤ y → x < s.cfg.w → y < s.cfg.h →
      (s.bytesOf b).length ≤ s.cfg.surfaceIndex x.toNat y.toNat → exec (.setPixel b x y v) s = .refused .indexOutsideBuffer) ∧
    (s.cfg.chunk = 0 → ∀ b, exec (.transfer b) s = .refused .zeroChunk))

/-! ### Invariants and whole-machine rules -/

/-- The state after construction meets every invariant below. -/
def Obligations.InvariantsHoldAtReset : Prop :=
  SeqInv State.reset ∧ FramingInv State.reset ∧ PollsInv State.reset ∧ BuffersInv State.reset ∧ LatchesHoldTrace State.reset ∧
  0 < State.reset.cfg.chunk ∧ State.reset.cfg.wf = true

/-- R23, R27: every step keeps ST and SEQ in step: Initializing is seen only while INIT runs, DRAW, DRAW2, CLEAR and SLEEP run in
Ready. That between steps a running operation stands at the head of its poll loop, and the form SEQ has there, are the model's
reading of R27 (logs 5, 6). -/
def Obligations.StepKeepsSequencerInvariant : Prop :=
  ∀ s t : State, SeqInv s → step s = .next t → SeqInv t

/-- R115: every step keeps the framing discipline of the trace: writes only inside a frame with 1 to CHUNK bytes, DC only outside,
assert and deassert in turn but for a failed write, after which the frame counts as over (log 23). That no frame is open
between steps rests on the size of a step (log 5). -/
def Obligations.StepKeepsFraming : Prop :=
  ∀ s t : State, SeqInv s → FramingInv s → 0 < s.cfg.chunk → step s = .next t → FramingInv t ∧ 0 < t.cfg.chunk

/-- R22: after every step each latch holds the level last driven on its line; chip-select not after a failed write. -/
def Obligations.StepKeepsLatches : Prop :=
  ∀ s t : State, LatchesHoldTrace s → step s = .next t → LatchesHoldTrace t

/-- R27, R133: after every step POLLS is absent (0: log 21) while SEQ is idle, and at least 1 and within the budget while a wait
runs; at least 1 because a step ends a poll iteration at its sample (log 5). -/
def Obligations.StepKeepsPolls : Prop :=
  ∀ s t : State, PollsInv s → step s = .next t → PollsInv t

/-- Log 11: every step keeps the host's buffers in their canonical form. -/
def Obligations.StepKeepsBuffers : Prop :=
  ∀ s t : State, BuffersInv s → step s = .next t → BuffersInv t

/-- R21, R33, R227, R9: no step changes CFG, takes an event off the trace or takes back what was returned. -/
def Obligations.StepOnlyAddsHistory : Prop :=
  ∀ s t : State, step s = .next t → t.cfg = s.cfg ∧ s.trace <+: t.trace ∧ s.returns <+: t.returns ∧ t.onError = s.onError ∧
    s.wrCount ≤ t.wrCount ∧ s.busyCount ≤ t.busyCount

/-- R27, R63, D25: running an operation's lines to the end or to the next turn of the poll loop is doing them one pseudocode line
at a time; each line is done at most once on the way (logs 5, 6). -/
def Obligations.StepIsLinesOneByOne : Prop :=
  ∀ (s : State) (op : OpName) (lines : List Line), s.seq = .running op lines →
    ∃ n t, n ≤ lines.length + 1 ∧ step s = .next t ∧ stepLines n s = t

/-- R92: where the host stops at errors, an operation that returns one makes it drop the rest of its program, whether the error
comes in the step that starts the operation or in a later turn of its wait; else the rest stays (log 15). -/
def Obligations.HostStopsAtError : Prop :=
  (∀ (s t : State) (w : Encoded) (rest : List Encoded), s.seq = .idle → s.program = w :: rest → step s = .next t →
    ((∃ e, t.returns = s.returns ++ [.error e]) → t.program = if s.onError = .stop then [] else rest) ∧
    ((¬∃ e, t.returns = s.returns ++ [.error e]) → t.program = rest)) ∧
  (∀ (s t : State) (op : OpName) (lines : List Line), s.seq = .running op lines → step s = .next t →
    ((∃ e, t.returns = s.returns ++ [.error e]) → t.program = if s.onError = .stop then [] else s.program) ∧
    ((¬∃ e, t.returns = s.returns ++ [.error e]) → t.program = s.program))

/-- R59, R192: SET_PIXEL on a host buffer changes one bit of one byte of that buffer: every other byte of every buffer reads as
before, and the byte stored to is the one the Surface formula gives. -/
def Obligations.SetPixelMemoryFrame : Prop :=
  ∀ (s t : State) (id : Nat) (x y : Int) (v : Bool), BuffersInv s → exec (.setPixel (.ref id) x y v) s = .next t →
    (∀ id' i, id' ≠ id ∨ i ≠ s.cfg.surfaceIndex x.toNat y.toNat → t.bufferByte? id' i = s.bufferByte? id' i) ∧
    (∀ old, 0 ≤ x → 0 ≤ y → x < s.cfg.w → y < s.cfg.h →
      s.bufferByte? id (s.cfg.surfaceIndex x.toNat y.toNat) = some old →
      ∃ new, t.bufferByte? id (s.cfg.surfaceIndex x.toNat y.toNat) = some new ∧
        ∀ k, k < 8 → new.getLsbD k = if k = 7 - x.toNat % 8 then v else old.getLsbD k)

/-- R172, R173: under a well-formed CFG, whatever the environment answers, INIT offers neither data-start opcode to the wire, no
panel operation but MONO.CLEAR, and no wait, offers OP_DATA_START_2, and a wait that goes on, of MONO.CLEAR or of another
operation, offers neither. The opcodes are the bytes written while DC is at the command level. -/
def Obligations.ImageCommandsStayOut : Prop :=
  ∀ (s t : State) (es : List Event), s.cfg.wf = true → t.trace = s.trace ++ es →
    (exec .init s = .next t →
      s.cfg.opDataStart ∉ opcodesOffered none es ∧ s.cfg.opDataStart2 ∉ opcodesOffered none es) ∧
    (∀ i : Instr, isPanelInstr i = true ∨ i = .waitUntilIdle → (∀ black, i ≠ .monoClear black) → exec i s = .next t →
      s.cfg.opDataStart2 ∉ opcodesOffered none es) ∧
    (SeqInv s → s.seq ≠ .idle → step s = .next t →
      s.cfg.opDataStart ∉ opcodesOffered none es ∧ s.cfg.opDataStart2 ∉ opcodesOffered none es)
end

