-- ==== Sys2Proof/Laws/State.lean ====
section
/-! SUPPORT. One lemma per field per update of State, so that no later proof unfolds a record update. -/

namespace Sys2Proof.Machine

variable (s : State)

@[simp] theorem State.setRst_cfg (l : Level) : (s.setRst l).cfg = s.cfg := rfl
@[simp] theorem State.setRst_st (l : Level) : (s.setRst l).st = s.st := rfl
@[simp] theorem State.setRst_rstL (l : Level) : (s.setRst l).rstL = l := rfl
@[simp] theorem State.setRst_csL (l : Level) : (s.setRst l).csL = s.csL := rfl
@[simp] theorem State.setRst_dcL (l : Level) : (s.setRst l).dcL = s.dcL := rfl
@[simp] theorem State.setRst_seq (l : Level) : (s.setRst l).seq = s.seq := rfl
@[simp] theorem State.setRst_polls (l : Level) : (s.setRst l).polls = s.polls := rfl
@[simp] theorem State.setRst_trace (l : Level) : (s.setRst l).trace = s.trace ++ [.rst l] := rfl
@[simp] theorem State.setRst_program (l : Level) : (s.setRst l).program = s.program := rfl
@[simp] theorem State.setRst_onError (l : Level) : (s.setRst l).onError = s.onError := rfl
@[simp] theorem State.setRst_bufs (l : Level) : (s.setRst l).bufs = s.bufs := rfl
@[simp] theorem State.setRst_returns (l : Level) : (s.setRst l).returns = s.returns := rfl
@[simp] theorem State.setRst_wrQueue (l : Level) : (s.setRst l).wrQueue = s.wrQueue := rfl
@[simp] theorem State.setRst_wrCount (l : Level) : (s.setRst l).wrCount = s.wrCount := rfl
@[simp] theorem State.setRst_busyQueue (l : Level) : (s.setRst l).busyQueue = s.busyQueue := rfl
@[simp] theorem State.setRst_busyCount (l : Level) : (s.setRst l).busyCount = s.busyCount := rfl
@[simp] theorem State.setRst_free (l : Level) : (s.setRst l).free = s.free := rfl

@[simp] theorem State.setDc_cfg (l : Level) : (s.setDc l).cfg = s.cfg := rfl
@[simp] theorem State.setDc_st (l : Level) : (s.setDc l).st = s.st := rfl
@[simp] theorem State.setDc_rstL (l : Level) : (s.setDc l).rstL = s.rstL := rfl
@[simp] theorem State.setDc_csL (l : Level) : (s.setDc l).csL = s.csL := rfl
@[simp] theorem State.setDc_dcL (l : Level) : (s.setDc l).dcL = l := rfl
@[simp] theorem State.setDc_seq (l : Level) : (s.setDc l).seq = s.seq := rfl
@[simp] theorem State.setDc_polls (l : Level) : (s.setDc l).polls = s.polls := rfl
@[simp] theorem State.setDc_trace (l : Level) : (s.setDc l).trace = s.trace ++ [.dc l] := rfl
@[simp] theorem State.setDc_program (l : Level) : (s.setDc l).program = s.program := rfl
@[simp] theorem State.setDc_onError (l : Level) : (s.setDc l).onError = s.onError := rfl
@[simp] theorem State.setDc_bufs (l : Level) : (s.setDc l).bufs = s.bufs := rfl
@[simp] theorem State.setDc_returns (l : Level) : (s.setDc l).returns = s.returns := rfl
@[simp] theorem State.setDc_wrQueue (l : Level) : (s.setDc l).wrQueue = s.wrQueue := rfl
@[simp] theorem State.setDc_wrCount (l : Level) : (s.setDc l).wrCount = s.wrCount := rfl
@[simp] theorem State.setDc_busyQueue (l : Level) : (s.setDc l).busyQueue = s.busyQueue := rfl
@[simp] theorem State.setDc_busyCount (l : Level) : (s.setDc l).busyCount = s.busyCount := rfl
@[simp] theorem State.setDc_free (l : Level) : (s.setDc l).free = s.free := rfl

@[simp] theorem State.assertCs_cfg : (s.assertCs).cfg = s.cfg := rfl
@[simp] theorem State.assertCs_st : (s.assertCs).st = s.st := rfl
@[simp] theorem State.assertCs_rstL : (s.assertCs).rstL = s.rstL := rfl
@[simp] theorem State.assertCs_csL : (s.assertCs).csL = s.cfg.csAssertLevel := rfl
@[simp] theorem State.assertCs_dcL : (s.assertCs).dcL = s.dcL := rfl
@[simp] theorem State.assertCs_seq : (s.assertCs).seq = s.seq := rfl
@[simp] theorem State.assertCs_polls : (s.assertCs).polls = s.polls := rfl
@[simp] theorem State.assertCs_trace : (s.assertCs).trace = s.trace ++ [.csAssert] := rfl
@[simp] theorem State.assertCs_program : (s.assertCs).program = s.program := rfl
@[simp] theorem State.assertCs_onError : (s.assertCs).onError = s.onError := rfl
@[simp] theorem State.assertCs_bufs : (s.assertCs).bufs = s.bufs := rfl
@[simp] theorem State.assertCs_returns : (s.assertCs).returns = s.returns := rfl
@[simp] theorem State.assertCs_wrQueue : (s.assertCs).wrQueue = s.wrQueue := rfl
@[simp] theorem State.assertCs_wrCount : (s.assertCs).wrCount = s.wrCount := rfl
@[simp] theorem State.assertCs_busyQueue : (s.assertCs).busyQueue = s.busyQueue := rfl
@[simp] theorem State.assertCs_busyCount : (s.assertCs).busyCount = s.busyCount := rfl
@[simp] theorem State.assertCs_free : (s.assertCs).free = s.free := rfl

@[simp] theorem State.deassertCs_cfg : (s.deassertCs).cfg = s.cfg := rfl
@[simp] theorem State.deassertCs_st : (s.deassertCs).st = s.st := rfl
@[simp] theorem State.deassertCs_rstL : (s.deassertCs).rstL = s.rstL := rfl
@[simp] theorem State.deassertCs_csL : (s.deassertCs).csL = deassertLevel s.cfg := rfl
@[simp] theorem State.deassertCs_dcL : (s.deassertCs).dcL = s.dcL := rfl
@[simp] theorem State.deassertCs_seq : (s.deassertCs).seq = s.seq := rfl
@[simp] theorem State.deassertCs_polls : (s.deassertCs).polls = s.polls := rfl
@[simp] theorem State.deassertCs_trace : (s.deassertCs).trace = s.trace ++ [.csDeassert] := rfl
@[simp] theorem State.deassertCs_program : (s.deassertCs).program = s.program := rfl
@[simp] theorem State.deassertCs_onError : (s.deassertCs).onError = s.onError := rfl
@[simp] theorem State.deassertCs_bufs : (s.deassertCs).bufs = s.bufs := rfl
@[simp] theorem State.deassertCs_returns : (s.deassertCs).returns = s.returns := rfl
@[simp] theorem State.deassertCs_wrQueue : (s.deassertCs).wrQueue = s.wrQueue := rfl
@[simp] theorem State.deassertCs_wrCount : (s.deassertCs).wrCount = s.wrCount := rfl
@[simp] theorem State.deassertCs_busyQueue : (s.deassertCs).busyQueue = s.busyQueue := rfl
@[simp] theorem State.deassertCs_busyCount : (s.deassertCs).busyCount = s.busyCount := rfl
@[simp] theorem State.deassertCs_free : (s.deassertCs).free = s.free := rfl

@[simp] theorem State.emit_cfg (e : Event) : (s.emit e).cfg = s.cfg := rfl
@[simp] theorem State.emit_st (e : Event) : (s.emit e).st = s.st := rfl
@[simp] theorem State.emit_rstL (e : Event) : (s.emit e).rstL = s.rstL := rfl
@[simp] theorem State.emit_csL (e : Event) : (s.emit e).csL = s.csL := rfl
@[simp] theorem State.emit_dcL (e : Event) : (s.emit e).dcL = s.dcL := rfl
@[simp] theorem State.emit_seq (e : Event) : (s.emit e).seq = s.seq := rfl
@[simp] theorem State.emit_polls (e : Event) : (s.emit e).polls = s.polls := rfl
@[simp] theorem State.emit_trace (e : Event) : (s.emit e).trace = s.trace ++ [e] := rfl
@[simp] theorem State.emit_program (e : Event) : (s.emit e).program = s.program := rfl
@[simp] theorem State.emit_onError (e : Event) : (s.emit e).onError = s.onError := rfl
@[simp] theorem State.emit_bufs (e : Event) : (s.emit e).bufs = s.bufs := rfl
@[simp] theorem State.emit_returns (e : Event) : (s.emit e).returns = s.returns := rfl
@[simp] theorem State.emit_wrQueue (e : Event) : (s.emit e).wrQueue = s.wrQueue := rfl
@[simp] theorem State.emit_wrCount (e : Event) : (s.emit e).wrCount = s.wrCount := rfl
@[simp] theorem State.emit_busyQueue (e : Event) : (s.emit e).busyQueue = s.busyQueue := rfl
@[simp] theorem State.emit_busyCount (e : Event) : (s.emit e).busyCount = s.busyCount := rfl
@[simp] theorem State.emit_free (e : Event) : (s.emit e).free = s.free := rfl

@[simp] theorem State.wr_cfg (b : List Byte) : (s.wr b).cfg = s.cfg := rfl
@[simp] theorem State.wr_st (b : List Byte) : (s.wr b).st = s.st := rfl
@[simp] theorem State.wr_rstL (b : List Byte) : (s.wr b).rstL = s.rstL := rfl
@[simp] theorem State.wr_csL (b : List Byte) : (s.wr b).csL = s.csL := rfl
@[simp] theorem State.wr_dcL (b : List Byte) : (s.wr b).dcL = s.dcL := rfl
@[simp] theorem State.wr_seq (b : List Byte) : (s.wr b).seq = s.seq := rfl
@[simp] theorem State.wr_polls (b : List Byte) : (s.wr b).polls = s.polls := rfl
@[simp] theorem State.wr_trace (b : List Byte) : (s.wr b).trace = s.trace ++ [.wr b (s.wrAnswer b.length)] := rfl
@[simp] theorem State.wr_program (b : List Byte) : (s.wr b).program = s.program := rfl
@[simp] theorem State.wr_onError (b : List Byte) : (s.wr b).onError = s.onError := rfl
@[simp] theorem State.wr_bufs (b : List Byte) : (s.wr b).bufs = s.bufs := rfl
@[simp] theorem State.wr_returns (b : List Byte) : (s.wr b).returns = s.returns := rfl
@[simp] theorem State.wr_wrQueue (b : List Byte) : (s.wr b).wrQueue = s.wrQueue.tail := rfl
@[simp] theorem State.wr_wrCount (b : List Byte) : (s.wr b).wrCount = s.wrCount + 1 := rfl
@[simp] theorem State.wr_busyQueue (b : List Byte) : (s.wr b).busyQueue = s.busyQueue := rfl
@[simp] theorem State.wr_busyCount (b : List Byte) : (s.wr b).busyCount = s.busyCount := rfl
@[simp] theorem State.wr_free (b : List Byte) : (s.wr b).free = s.free := rfl

@[simp] theorem State.sampleBusy_cfg : (s.sampleBusy).cfg = s.cfg := rfl
@[simp] theorem State.sampleBusy_st : (s.sampleBusy).st = s.st := rfl
@[simp] theorem State.sampleBusy_rstL : (s.sampleBusy).rstL = s.rstL := rfl
@[simp] theorem State.sampleBusy_csL : (s.sampleBusy).csL = s.csL := rfl
@[simp] theorem State.sampleBusy_dcL : (s.sampleBusy).dcL = s.dcL := rfl
@[simp] theorem State.sampleBusy_seq : (s.sampleBusy).seq = s.seq := rfl
@[simp] theorem State.sampleBusy_polls : (s.sampleBusy).polls = s.polls + 1 := rfl
@[simp] theorem State.sampleBusy_trace : (s.sampleBusy).trace = s.trace ++ [.busy (s.busyAt 0)] := rfl
@[simp] theorem State.sampleBusy_program : (s.sampleBusy).program = s.program := rfl
@[simp] theorem State.sampleBusy_onError : (s.sampleBusy).onError = s.onError := rfl
@[simp] theorem State.sampleBusy_bufs : (s.sampleBusy).bufs = s.bufs := rfl
@[simp] theorem State.sampleBusy_returns : (s.sampleBusy).returns = s.returns := rfl
@[simp] theorem State.sampleBusy_wrQueue : (s.sampleBusy).wrQueue = s.wrQueue := rfl
@[simp] theorem State.sampleBusy_wrCount : (s.sampleBusy).wrCount = s.wrCount := rfl
@[simp] theorem State.sampleBusy_busyQueue : (s.sampleBusy).busyQueue = s.busyQueue.tail := rfl
@[simp] theorem State.sampleBusy_busyCount : (s.sampleBusy).busyCount = s.busyCount + 1 := rfl
@[simp] theorem State.sampleBusy_free : (s.sampleBusy).free = s.free := rfl

@[simp] theorem State.setSt_cfg (st : St) : (s.setSt st).cfg = s.cfg := rfl
@[simp] theorem State.setSt_st (st : St) : (s.setSt st).st = st := rfl
@[simp] theorem State.setSt_rstL (st : St) : (s.setSt st).rstL = s.rstL := rfl
@[simp] theorem State.setSt_csL (st : St) : (s.setSt st).csL = s.csL := rfl
@[simp] theorem State.setSt_dcL (st : St) : (s.setSt st).dcL = s.dcL := rfl
@[simp] theorem State.setSt_seq (st : St) : (s.setSt st).seq = s.seq := rfl
@[simp] theorem State.setSt_polls (st : St) : (s.setSt st).polls = s.polls := rfl
@[simp] theorem State.setSt_trace (st : St) : (s.setSt st).trace = s.trace := rfl
@[simp] theorem State.setSt_program (st : St) : (s.setSt st).program = s.program := rfl
@[simp] theorem State.setSt_onError (st : St) : (s.setSt st).onError = s.onError := rfl
@[simp] theorem State.setSt_bufs (st : St) : (s.setSt st).bufs = s.bufs := rfl
@[simp] theorem State.setSt_returns (st : St) : (s.setSt st).returns = s.returns := rfl
@[simp] theorem State.setSt_wrQueue (st : St) : (s.setSt st).wrQueue = s.wrQueue := rfl
@[simp] theorem State.setSt_wrCount (st : St) : (s.setSt st).wrCount = s.wrCount := rfl
@[simp] theorem State.setSt_busyQueue (st : St) : (s.setSt st).busyQueue = s.busyQueue := rfl
@[simp] theorem State.setSt_busyCount (st : St) : (s.setSt st).busyCount = s.busyCount := rfl
@[simp] theorem State.setSt_free (st : St) : (s.setSt st).free = s.free := rfl

@[simp] theorem State.finish_cfg (r : Ret) : (s.finish r).cfg = s.cfg := rfl
@[simp] theorem State.finish_st (r : Ret) : (s.finish r).st = s.st := rfl
@[simp] theorem State.finish_rstL (r : Ret) : (s.finish r).rstL = s.rstL := rfl
@[simp] theorem State.finish_csL (r : Ret) : (s.finish r).csL = s.csL := rfl
@[simp] theorem State.finish_dcL (r : Ret) : (s.finish r).dcL = s.dcL := rfl
@[simp] theorem State.finish_seq (r : Ret) : (s.finish r).seq = .idle := rfl
@[simp] theorem State.finish_polls (r : Ret) : (s.finish r).polls = 0 := rfl
@[simp] theorem State.finish_trace (r : Ret) : (s.finish r).trace = s.trace := rfl
@[simp] theorem State.finish_onError (r : Ret) : (s.finish r).onError = s.onError := rfl
@[simp] theorem State.finish_bufs (r : Ret) : (s.finish r).bufs = s.bufs := rfl
@[simp] theorem State.finish_returns (r : Ret) : (s.finish r).returns = s.returns ++ [r] := rfl
@[simp] theorem State.finish_wrQueue (r : Ret) : (s.finish r).wrQueue = s.wrQueue := rfl
@[simp] theorem State.finish_wrCount (r : Ret) : (s.finish r).wrCount = s.wrCount := rfl
@[simp] theorem State.finish_busyQueue (r : Ret) : (s.finish r).busyQueue = s.busyQueue := rfl
@[simp] theorem State.finish_busyCount (r : Ret) : (s.finish r).busyCount = s.busyCount := rfl
@[simp] theorem State.finish_free (r : Ret) : (s.finish r).free = s.free := rfl

@[simp] theorem State.told_cfg (es : List Event) (nw nb : Nat) : (s.told es nw nb).cfg = s.cfg := rfl
@[simp] theorem State.told_st (es : List Event) (nw nb : Nat) : (s.told es nw nb).st = s.st := rfl
@[simp] theorem State.told_rstL (es : List Event) (nw nb : Nat) : (s.told es nw nb).rstL = s.rstL := rfl
@[simp] theorem State.told_csL (es : List Event) (nw nb : Nat) : (s.told es nw nb).csL = s.csL := rfl
@[simp] theorem State.told_dcL (es : List Event) (nw nb : Nat) : (s.told es nw nb).dcL = s.dcL := rfl
@[simp] theorem State.told_seq (es : List Event) (nw nb : Nat) : (s.told es nw nb).seq = s.seq := rfl
@[simp] theorem State.told_polls (es : List Event) (nw nb : Nat) : (s.told es nw nb).polls = s.polls := rfl
@[simp] theorem State.told_trace (es : List Event) (nw nb : Nat) : (s.told es nw nb).trace = s.trace ++ es := rfl
@[simp] theorem State.told_program (es : List Event) (nw nb : Nat) : (s.told es nw nb).program = s.program := rfl
@[simp] theorem State.told_onError (es : List Event) (nw nb : Nat) : (s.told es nw nb).onError = s.onError := rfl
@[simp] theorem State.told_bufs (es : List Event) (nw nb : Nat) : (s.told es nw nb).bufs = s.bufs := rfl
@[simp] theorem State.told_returns (es : List Event) (nw nb : Nat) : (s.told es nw nb).returns = s.returns := rfl
@[simp] theorem State.told_wrQueue (es : List Event) (nw nb : Nat) : (s.told es nw nb).wrQueue = s.wrQueue.drop nw := rfl
@[simp] theorem State.told_wrCount (es : List Event) (nw nb : Nat) : (s.told es nw nb).wrCount = s.wrCount + nw := rfl
@[simp] theorem State.told_busyQueue (es : List Event) (nw nb : Nat) : (s.told es nw nb).busyQueue = s.busyQueue.drop nb := rfl
@[simp] theorem State.told_busyCount (es : List Event) (nw nb : Nat) : (s.told es nw nb).busyCount = s.busyCount + nb := rfl
@[simp] theorem State.told_free (es : List Event) (nw nb : Nat) : (s.told es nw nb).free = s.free := rfl

@[simp] theorem State.finish_program_ok (v : Value) : (s.finish (.ok v)).program = s.program := rfl
@[simp] theorem State.finish_program_error (e : Err) :
    (s.finish (.error e)).program = if s.onError = .stop then [] else s.program := by
  unfold State.finish; cases s.onError <;> rfl

@[simp] theorem State.markFault_cfg (op : OpName) (e : Err) : (s.markFault op e).cfg = s.cfg := by
  unfold State.markFault; split <;> rfl
@[simp] theorem State.markFault_rstL (op : OpName) (e : Err) : (s.markFault op e).rstL = s.rstL := by
  unfold State.markFault; split <;> rfl
@[simp] theorem State.markFault_csL (op : OpName) (e : Err) : (s.markFault op e).csL = s.csL := by
  unfold State.markFault; split <;> rfl
@[simp] theorem State.markFault_dcL (op : OpName) (e : Err) : (s.markFault op e).dcL = s.dcL := by
  unfold State.markFault; split <;> rfl
@[simp] theorem State.markFault_seq (op : OpName) (e : Err) : (s.markFault op e).seq = s.seq := by
  unfold State.markFault; split <;> rfl
@[simp] theorem State.markFault_polls (op : OpName) (e : Err) : (s.markFault op e).polls = s.polls := by
  unfold State.markFault; split <;> rfl
@[simp] theorem State.markFault_trace (op : OpName) (e : Err) : (s.markFault op e).trace = s.trace := by
  unfold State.markFault; split <;> rfl
@[simp] theorem State.markFault_program (op : OpName) (e : Err) : (s.markFault op e).program = s.program := by
  unfold State.markFault; split <;> rfl
@[simp] theorem State.markFault_onError (op : OpName) (e : Err) : (s.markFault op e).onError = s.onError := by
  unfold State.markFault; split <;> rfl
@[simp] theorem State.markFault_bufs (op : OpName) (e : Err) : (s.markFault op e).bufs = s.bufs := by
  unfold State.markFault; split <;> rfl
@[simp] theorem State.markFault_returns (op : OpName) (e : Err) : (s.markFault op e).returns = s.returns := by
  unfold State.markFault; split <;> rfl
@[simp] theorem State.markFault_wrQueue (op : OpName) (e : Err) : (s.markFault op e).wrQueue = s.wrQueue := by
  unfold State.markFault; split <;> rfl
@[simp] theorem State.markFault_wrCount (op : OpName) (e : Err) : (s.markFault op e).wrCount = s.wrCount := by
  unfold State.markFault; split <;> rfl
@[simp] theorem State.markFault_busyQueue (op : OpName) (e : Err) : (s.markFault op e).busyQueue = s.busyQueue := by
  unfold State.markFault; split <;> rfl
@[simp] theorem State.markFault_busyCount (op : OpName) (e : Err) : (s.markFault op e).busyCount = s.busyCount := by
  unfold State.markFault; split <;> rfl
@[simp] theorem State.markFault_free (op : OpName) (e : Err) : (s.markFault op e).free = s.free := by
  unfold State.markFault; split <;> rfl
@[simp] theorem State.markFault_st (op : OpName) (e : Err) :
    (s.markFault op e).st = if isPanelOp op && busPhase e then .fault else s.st := by
  unfold State.markFault; split <;> rfl

@[simp] theorem State.loseCs_cfg (e : Err) : (s.loseCs e).cfg = s.cfg := by cases e <;> rfl
@[simp] theorem State.loseCs_st (e : Err) : (s.loseCs e).st = s.st := by cases e <;> rfl
@[simp] theorem State.loseCs_rstL (e : Err) : (s.loseCs e).rstL = s.rstL := by cases e <;> rfl
@[simp] theorem State.loseCs_dcL (e : Err) : (s.loseCs e).dcL = s.dcL := by cases e <;> rfl
@[simp] theorem State.loseCs_seq (e : Err) : (s.loseCs e).seq = s.seq := by cases e <;> rfl
@[simp] theorem State.loseCs_polls (e : Err) : (s.loseCs e).polls = s.polls := by cases e <;> rfl
@[simp] theorem State.loseCs_trace (e : Err) : (s.loseCs e).trace = s.trace := by cases e <;> rfl
@[simp] theorem State.loseCs_program (e : Err) : (s.loseCs e).program = s.program := by cases e <;> rfl
@[simp] theorem State.loseCs_onError (e : Err) : (s.loseCs e).onError = s.onError := by cases e <;> rfl
@[simp] theorem State.loseCs_bufs (e : Err) : (s.loseCs e).bufs = s.bufs := by cases e <;> rfl
@[simp] theorem State.loseCs_returns (e : Err) : (s.loseCs e).returns = s.returns := by cases e <;> rfl
@[simp] theorem State.loseCs_wrQueue (e : Err) : (s.loseCs e).wrQueue = s.wrQueue := by cases e <;> rfl
@[simp] theorem State.loseCs_wrCount (e : Err) : (s.loseCs e).wrCount = s.wrCount := by cases e <;> rfl
@[simp] theorem State.loseCs_busyQueue (e : Err) : (s.loseCs e).busyQueue = s.busyQueue := by cases e <;> rfl
@[simp] theorem State.loseCs_busyCount (e : Err) : (s.loseCs e).busyCount = s.busyCount := by cases e <;> rfl

@[simp] theorem State.raiseIn_cfg (op : OpName) (e : Err) : (s.raiseIn op e).cfg = s.cfg := by
  simp [State.raiseIn]
@[simp] theorem State.raiseIn_rstL (op : OpName) (e : Err) : (s.raiseIn op e).rstL = s.rstL := by
  simp [State.raiseIn]
@[simp] theorem State.raiseIn_dcL (op : OpName) (e : Err) : (s.raiseIn op e).dcL = s.dcL := by
  simp [State.raiseIn]
@[simp] theorem State.raiseIn_trace (op : OpName) (e : Err) : (s.raiseIn op e).trace = s.trace := by
  simp [State.raiseIn]
@[simp] theorem State.raiseIn_onError (op : OpName) (e : Err) : (s.raiseIn op e).onError = s.onError := by
  simp [State.raiseIn]
@[simp] theorem State.raiseIn_bufs (op : OpName) (e : Err) : (s.raiseIn op e).bufs = s.bufs := by
  simp [State.raiseIn]
@[simp] theorem State.raiseIn_wrQueue (op : OpName) (e : Err) : (s.raiseIn op e).wrQueue = s.wrQueue := by
  simp [State.raiseIn]
@[simp] theorem State.raiseIn_wrCount (op : OpName) (e : Err) : (s.raiseIn op e).wrCount = s.wrCount := by
  simp [State.raiseIn]
@[simp] theorem State.raiseIn_busyQueue (op : OpName) (e : Err) : (s.raiseIn op e).busyQueue = s.busyQueue := by
  simp [State.raiseIn]
@[simp] theorem State.raiseIn_busyCount (op : OpName) (e : Err) : (s.raiseIn op e).busyCount = s.busyCount := by
  simp [State.raiseIn]
@[simp] theorem State.raiseIn_st (op : OpName) (e : Err) :
    (s.raiseIn op e).st = if isPanelOp op && busPhase e then .fault else s.st := by
  simp [State.raiseIn]
@[simp] theorem State.raiseIn_seq (op : OpName) (e : Err) : (s.raiseIn op e).seq = .idle := rfl
@[simp] theorem State.raiseIn_polls (op : OpName) (e : Err) : (s.raiseIn op e).polls = 0 := rfl
@[simp] theorem State.raiseIn_returns (op : OpName) (e : Err) : (s.raiseIn op e).returns = s.returns ++ [.error e] := by
  simp [State.raiseIn]
@[simp] theorem State.raiseIn_program (op : OpName) (e : Err) :
    (s.raiseIn op e).program = if s.onError = .stop then [] else s.program := by
  simp [State.raiseIn]
@[simp] theorem State.raiseIn_csL_transport (op : OpName) (off k : Nat) (r : WrAnswer) :
    (s.raiseIn op (.transport off k r)).csL = Config.csAfterFailure s.free := by
  simp [State.raiseIn, State.loseCs]

@[simp] theorem State.putBytes_cfg (b : Buf) (l : List Byte) : (s.putBytes b l).cfg = s.cfg := by cases b <;> rfl
@[simp] theorem State.putBytes_st (b : Buf) (l : List Byte) : (s.putBytes b l).st = s.st := by cases b <;> rfl
@[simp] theorem State.putBytes_rstL (b : Buf) (l : List Byte) : (s.putBytes b l).rstL = s.rstL := by cases b <;> rfl
@[simp] theorem State.putBytes_csL (b : Buf) (l : List Byte) : (s.putBytes b l).csL = s.csL := by cases b <;> rfl
@[simp] theorem State.putBytes_dcL (b : Buf) (l : List Byte) : (s.putBytes b l).dcL = s.dcL := by cases b <;> rfl
@[simp] theorem State.putBytes_seq (b : Buf) (l : List Byte) : (s.putBytes b l).seq = s.seq := by cases b <;> rfl
@[simp] theorem State.putBytes_polls (b : Buf) (l : List Byte) : (s.putBytes b l).polls = s.polls := by cases b <;> rfl
@[simp] theorem State.putBytes_trace (b : Buf) (l : List Byte) : (s.putBytes b l).trace = s.trace := by cases b <;> rfl
@[simp] theorem State.putBytes_program (b : Buf) (l : List Byte) : (s.putBytes b l).program = s.program := by cases b <;> rfl
@[simp] theorem State.putBytes_onError (b : Buf) (l : List Byte) : (s.putBytes b l).onError = s.onError := by cases b <;> rfl
@[simp] theorem State.putBytes_returns (b : Buf) (l : List Byte) : (s.putBytes b l).returns = s.returns := by cases b <;> rfl
@[simp] theorem State.putBytes_wrQueue (b : Buf) (l : List Byte) : (s.putBytes b l).wrQueue = s.wrQueue := by cases b <;> rfl
@[simp] theorem State.putBytes_wrCount (b : Buf) (l : List Byte) : (s.putBytes b l).wrCount = s.wrCount := by cases b <;> rfl
@[simp] theorem State.putBytes_busyQueue (b : Buf) (l : List Byte) : (s.putBytes b l).busyQueue = s.busyQueue := by cases b <;> rfl
@[simp] theorem State.putBytes_busyCount (b : Buf) (l : List Byte) : (s.putBytes b l).busyCount = s.busyCount := by cases b <;> rfl
@[simp] theorem State.putBytes_free (b : Buf) (l : List Byte) : (s.putBytes b l).free = s.free := by cases b <;> rfl
@[simp] theorem State.putBytes_bufs_lit (b l : List Byte) : (s.putBytes (.lit b) l).bufs = s.bufs := rfl
@[simp] theorem State.putBytes_bufs_ref (id : Nat) (l : List Byte) :
    (s.putBytes (.ref id) l).bufs = writeBuffers s.bufs id l := rfl

end Sys2Proof.Machine
end

