-- ==== Sys2Proof/Laws/Operands.lean ====
section
/-! SUPPORT. The host's buffers: every write keeps the canonical form, a read after a write, and nothing else changes. -/

namespace Sys2Proof.Machine

/-- The state after construction has its buffers in canonical form (log 11). -/
theorem State.construct_buffersWf (cfg : Cfg) : buffersWf (State.construct cfg).bufs = true := rfl

theorem buffersAbove_mono {lo lo' : Nat} (h : lo' ≤ lo) : ∀ {b : Buffers}, buffersAbove lo b = true → buffersAbove lo' b = true
  | [], _ => rfl
  | (n, bytes) :: rest, hb => by
    simp only [buffersAbove, Bool.and_eq_true, decide_eq_true_eq] at hb ⊢
    exact ⟨⟨by omega, hb.1.2⟩, hb.2⟩

theorem writeBuffers_above (lo id : Nat) (bytes : List Byte) (h : lo ≤ id) (b : Buffers) (hb : buffersAbove lo b = true) :
    buffersAbove lo (writeBuffers b id bytes) = true := by
  induction b generalizing lo with
  | nil =>
    unfold writeBuffers
    split <;> simp_all [buffersAbove]
  | cons e rest ih =>
    obtain ⟨n, old⟩ := e
    simp only [buffersAbove, Bool.and_eq_true, decide_eq_true_eq] at hb
    unfold writeBuffers
    split
    · simp only [buffersAbove, Bool.and_eq_true, decide_eq_true_eq]
      exact ⟨hb.1, ih (n + 1) (by omega) hb.2⟩
    · split
      · split
        · exact buffersAbove_mono (by omega) hb.2
        · simp only [buffersAbove, Bool.and_eq_true, decide_eq_true_eq]
          subst n
          exact ⟨⟨h, by simp_all⟩, hb.2⟩
      · split
        · simp only [buffersAbove, Bool.and_eq_true, decide_eq_true_eq]
          exact hb
        · simp only [buffersAbove, Bool.and_eq_true, decide_eq_true_eq]
          exact ⟨⟨h, by simp_all⟩, ⟨by omega, hb.1.2⟩, hb.2⟩

/-- A write keeps the canonical form (log 11). -/
theorem writeBuffers_wf (b : Buffers) (id : Nat) (bytes : List Byte) (h : buffersWf b = true) :
    buffersWf (writeBuffers b id bytes) = true :=
  writeBuffers_above 0 id bytes (Nat.zero_le _) b h

theorem readBuffers_above {lo id : Nat} (h : id < lo) : ∀ {b : Buffers}, buffersAbove lo b = true → readBuffers b id = []
  | [], _ => rfl
  | (n, bytes) :: rest, hb => by
    simp only [buffersAbove, Bool.and_eq_true, decide_eq_true_eq] at hb
    rw [readBuffers, if_neg (by omega)]
    exact readBuffers_above (by omega) hb.2

/-- A buffer that was written holds what was written. -/
theorem readBuffers_writeBuffers (lo id : Nat) (bytes : List Byte) (b : Buffers) (hb : buffersAbove lo b = true) :
    readBuffers (writeBuffers b id bytes) id = bytes := by
  induction b generalizing lo with
  | nil => unfold writeBuffers; split <;> simp_all [readBuffers]
  | cons e rest ih =>
    obtain ⟨n, old⟩ := e
    simp only [buffersAbove, Bool.and_eq_true, decide_eq_true_eq] at hb
    unfold writeBuffers
    split
    · rw [readBuffers, if_neg (by omega)]; exact ih (n + 1) hb.2
    · split
      · subst n
        split
        · rename_i h; rw [h]; exact readBuffers_above (by omega) hb.2
        · simp [readBuffers]
      · split
        · rename_i h; rw [h, readBuffers, if_neg (by omega)]; exact readBuffers_above (by omega) hb.2
        · simp [readBuffers]

/-- A write to one buffer leaves every other buffer alone. -/
theorem readBuffers_writeBuffers_of_ne (id id' : Nat) (bytes : List Byte) (hne : id' ≠ id) (b : Buffers) :
    readBuffers (writeBuffers b id bytes) id' = readBuffers b id' := by
  induction b with
  | nil => unfold writeBuffers; split <;> simp [readBuffers, hne.symm]
  | cons e rest ih =>
    obtain ⟨n, old⟩ := e
    unfold writeBuffers
    split
    · simp only [readBuffers, ih]
    · split
      · subst n
        split <;> simp [readBuffers, hne.symm]
      · split <;> simp [readBuffers, hne.symm]

/-- An operand stored in place keeps the canonical form. -/
theorem State.putBytes_wf (s : State) (b : Buf) (bytes : List Byte) (h : buffersWf s.bufs = true) :
    buffersWf (s.putBytes b bytes).bufs = true := by
  cases b with
  | lit _ => exact h
  | ref id => exact writeBuffers_wf _ _ _ h

end Sys2Proof.Machine
end

