-- ==== Sys2Proof/Laws/Ops.lean ====
section
/-! SUPPORT. What one pseudocode line can do, an induction over running lines packaged once, running an appended list, the
environment's answers after some have been used up, and that running lines is doing them one by one (R27). -/

namespace Sys2Proof.Machine

/-! ### The environment's answers -/

@[simp] theorem State.wrDrawAt_told (s : State) (es : List Event) (nw nb j : Nat) :
    (s.told es nw nb).wrDrawAt j = s.wrDrawAt (nw + j) := by
  simp [State.wrDrawAt, Nat.add_assoc]

@[simp] theorem State.busyAt_told (s : State) (es : List Event) (nw nb j : Nat) :
    (s.told es nw nb).busyAt j = s.busyAt (nb + j) := by
  simp [State.busyAt, Nat.add_assoc]

theorem State.wrDrawAt_congr {s t : State} (hq : s.wrQueue = t.wrQueue) (hc : s.wrCount = t.wrCount) (j : Nat) :
    s.wrDrawAt j = t.wrDrawAt j := by
  simp [State.wrDrawAt, hq, hc]

theorem State.busyAt_congr {s t : State} (hq : s.busyQueue = t.busyQueue) (hc : s.busyCount = t.busyCount) (j : Nat) :
    s.busyAt j = t.busyAt j := by
  simp [State.busyAt, hq, hc]

theorem State.told_told (s : State) (es fs : List Event) (nw nb mw mb : Nat) :
    (s.told es nw nb).told fs mw mb = s.told (es ++ fs) (nw + mw) (nb + mb) := by
  simp [State.told, Nat.add_assoc]

theorem takenWhole_answerOf_full (k : Nat) : takenWhole k (answerOf .full k) = true := by
  simp [takenWhole, answerOf]

/-- A write that is not taken whole was answered `Fail` or with a smaller count (R110, R221). -/
theorem takenWhole_eq_false {k : Nat} {r : WrAnswer} :
    takenWhole k r = false ↔ r = .fail ∨ ∃ n, r = .count n ∧ n < k := by
  cases r <;> simp [takenWhole]

/-- The environment never takes more than it is offered (R114). -/
theorem answerOf_le {d : WrDraw} {k n : Nat} (h : answerOf d k = .count n) : n ≤ k := by
  cases d <;> simp [answerOf] at h <;> omega

/-! ### One line -/

/-- A line that lets the operation go on has one of these effects, by its kind. -/
theorem runLine_next {l : Line} {s t : State} (h : runLine l s = .next t) :
    (∃ v, l = .setRst v ∧ t = s.setRst v) ∨ (∃ v, l = .setDc v ∧ t = s.setDc v) ∨
    (l = .csAssert ∧ t = s.assertCs) ∨ (l = .csDeassert ∧ t = s.deassertCs) ∨
    (∃ off k, l = .wr off k ∧ takenWhole k.length (s.wrAnswer k.length) = true ∧ t = s.wr k) ∨
    (∃ ms, l = .delay ms ∧ t = s.emit (.dly ms)) ∨ (l = .pollsZero ∧ t = { s with polls := 0 }) ∨
    (l = .sample ∧ isIdleLevel s.cfg (s.busyAt 0) = true ∧ t = s.sampleBusy) ∨
    (∃ st, l = .setSt st ∧ t = s.setSt st) := by
  cases l <;> simp only [runLine] at h
  case wr off k =>
    split at h
    · cases h; simp [*]
    · cases h
  case sample =>
    split at h
    · cases h; simp [*]
    · split at h <;> cases h
  all_goals cases h; simp

/-- A line that raises is a write that was not taken whole, or a sample that was not idle with the budget used up. -/
theorem runLine_raise {l : Line} {s t : State} {e : Err} (h : runLine l s = .raise e t) :
    (∃ off k, l = .wr off k ∧ takenWhole k.length (s.wrAnswer k.length) = false ∧
      e = .transport off k.length (s.wrAnswer k.length) ∧ t = s.wr k) ∨
    (l = .sample ∧ isIdleLevel s.cfg (s.busyAt 0) = false ∧ budgetSpent s.cfg (s.polls + 1) = true ∧
      e = .busyTimeout (s.polls + 1) ∧ t = s.sampleBusy) := by
  cases l <;> simp only [runLine] at h <;> try cases h
  case wr off k =>
    split at h
    · cases h
    · cases h; simp_all
  case sample =>
    split at h
    · cases h
    · split at h
      · cases h; simp_all
      · cases h

/-- A line that turns the poll loop is a sample that was not idle with the budget not used up. -/
theorem runLine_busy {l : Line} {s t : State} (h : runLine l s = .busy t) :
    l = .sample ∧ isIdleLevel s.cfg (s.busyAt 0) = false ∧ budgetSpent s.cfg (s.polls + 1) = false ∧
      t = s.sampleBusy := by
  cases l <;> simp only [runLine] at h <;> try cases h
  case wr off k => split at h <;> cases h
  case sample =>
    split at h
    · cases h
    · split at h <;> cases h
      simp_all

/-! ### Running lines -/

/-- Whatever every line of an operation, its return, its errors and the turn of its poll loop do to `P`, running the lines
does. -/
theorem advance_induction {op : OpName} {P : List Line → State → Prop} {Q : State → Prop}
    (hnil : ∀ s, P [] s → Q (s.finish (.ok .unit)))
    (hnext : ∀ l ls s t, P (l :: ls) s → runLine l s = .next t → P ls t)
    (hraise : ∀ l ls s e t, P (l :: ls) s → runLine l s = .raise e t → Q (t.raiseIn op e))
    (hbusy : ∀ l ls s t, P (l :: ls) s → runLine l s = .busy t →
      Q { t with seq := .running op (pollLines t.cfg ++ ls) }) :
    ∀ ls s, P ls s → Q (advance op ls s)
  | [], s, h => hnil s h
  | l :: ls, s, h => by
    unfold advance
    split
    · exact advance_induction hnil hnext hraise hbusy ls _ (hnext l ls s _ h ‹_›)
    · exact hraise l ls s _ _ h ‹_›
    · exact hbusy l ls s _ h ‹_›

theorem advance_cons_next {op : OpName} {l : Line} {ls : List Line} {s t : State} (h : runLine l s = .next t) :
    advance op (l :: ls) s = advance op ls t := by
  simp [advance, h]

/-- A running operation with the lines `l :: ls` left, one line on. -/
theorem stepLine_running (op : OpName) (l : Line) (ls : List Line) (s : State) (h : s.seq = .running op (l :: ls)) :
    stepLine s = match runLine l s with
      | .next t => { t with seq := .running op ls }
      | .raise e t => t.raiseIn op e
      | .busy t => { t with seq := .running op (pollLines t.cfg ++ ls) } := by
  cases hr : runLine l s <;> simp [stepLine, h, hr]

end Sys2Proof.Machine
end

