-- ==== Sys2Proof/Laws/Transport.lean ====
section
/-! SUPPORT. The bus phase where every write is taken whole: the chunk loop, a transfer, a wire command and one poll
iteration, each run in front of any further lines. -/

namespace Sys2Proof.Machine

theorem writesOf_nil (c : Nat) (hc : 0 < c) : writesOf c [] = 0 := by
  simp only [writesOf, List.length_nil, Nat.zero_add]
  exact Nat.div_eq_of_lt (by omega)

theorem writesOf_singleton (c : Nat) (hc : 0 < c) (b : Byte) : writesOf c [b] = 1 := by
  simp only [writesOf, List.length_cons, List.length_nil]
  rw [show 0 + 1 + c - 1 = c by omega, Nat.div_self hc]

theorem writesOf_drop (c : Nat) (hc : 0 < c) (l : List Byte) (hl : l ≠ []) :
    writesOf c l = writesOf c (l.drop c) + 1 := by
  have hpos : 0 < l.length := List.length_pos_iff.mpr hl
  simp only [writesOf, List.length_drop]
  by_cases h : c ≤ l.length
  · rw [show l.length + c - 1 = (l.length - c + c - 1) + c by omega, Nat.add_div_right _ hc]
  · rw [show l.length - c + c - 1 = c - 1 by omega, Nat.div_eq_of_lt (show c - 1 < c by omega),
      show l.length + c - 1 = (l.length - 1) + c by omega, Nat.add_div_right _ hc,
      Nat.div_eq_of_lt (by omega)]

theorem chunksOf_nil (c : Nat) (hc : 0 < c) : chunksOf c [] = [] := by
  simp [chunksOf, writesOf_nil c hc]

theorem chunksOf_cons (c : Nat) (hc : 0 < c) (l : List Byte) (hl : l ≠ []) :
    chunksOf c l = l.take c :: chunksOf c (l.drop c) := by
  simp only [chunksOf, writesOf_drop c hc l hl, List.range_succ_eq_map, List.map_cons, List.map_map]
  congr 1
  · simp
  · apply List.map_congr_left
    intro j _
    simp [Nat.succ_mul, Nat.add_comm]

/-- The chunk loop with every write taken whole (R110). -/
theorem advance_chunks (op : OpName) (c : Nat) (hc : 0 < c) (ms : List Line) (n off : Nat) (l : List Byte) (s : State)
    (hn : l.length ≤ n) (hf : s.AllFull (writesOf c l)) :
    advance op (chunkLines c n off l ++ ms) s =
      advance op ms (s.told ((chunksOf c l).map fun k => .wr k (.count k.length)) (writesOf c l) 0) := by
  induction n generalizing off l s with
  | zero =>
    obtain rfl : l = [] := List.length_eq_zero_iff.mp (by omega)
    simp [chunkLines, writesOf_nil c hc, chunksOf_nil c hc, State.told]
  | succ n ih =>
    cases l with
    | nil => simp [chunkLines, writesOf_nil c hc, chunksOf_nil c hc, State.told]
    | cons b bs =>
      have hne : b :: bs ≠ [] := by simp
      have hw := writesOf_drop c hc (b :: bs) hne
      have hlen : ((b :: bs).drop c).length ≤ n := by simp at hn ⊢; omega
      have h0 : s.wrDrawAt 0 = .full := hf 0 (by omega)
      have hgo : runLine (.wr off ((b :: bs).take c)) s = .next (s.wr ((b :: bs).take c)) := by
        simp only [runLine, State.wrAnswer, h0, takenWhole_answerOf_full, if_true]
      have hs : s.wr ((b :: bs).take c) = s.told [.wr ((b :: bs).take c) (.count ((b :: bs).take c).length)] 1 0 := by
        simp only [State.wr, State.told, State.wrAnswer, h0, answerOf, List.drop_one, List.drop_zero, Nat.add_zero]
      rw [show chunkLines c (n + 1) off (b :: bs) ++ ms =
        Line.wr off ((b :: bs).take c) :: (chunkLines c n (off + c) ((b :: bs).drop c) ++ ms) from rfl,
        advance_cons_next hgo, hs, ih (off + c) _ _ hlen ?_, State.told_told, chunksOf_cons c hc _ hne, hw,
        Nat.add_comm 1]
      · rfl
      · intro j hj
        rw [State.wrDrawAt_told]
        exact hf _ (by omega)

/-- TRANSFER with every write taken whole (R110), in front of further lines. -/
theorem advance_transfer (op : OpName) (c : Cfg) (bytes : List Byte) (ms : List Line) (s : State) (hcfg : s.cfg = c)
    (hc : 0 < c.chunk) (hf : s.AllFull (writesOf c.chunk bytes)) :
    advance op (transferLines c bytes ++ ms) s =
      advance op ms ((s.told (transferTrace c bytes) (writesOf c.chunk bytes) 0).atLines s.dcL (deassertLevel c)) := by
  have hf' : s.assertCs.AllFull (writesOf c.chunk bytes) := hf
  unfold transferLines
  rw [List.cons_append, advance_cons_next (t := s.assertCs) rfl, List.append_assoc,
    advance_chunks op c.chunk hc _ _ _ _ _ (Nat.le_refl _) hf', List.singleton_append, advance_cons_next rfl]
  simp [State.atLines, State.told, State.assertCs, State.deassertCs, transferTrace, hcfg]

theorem chunksOf_singleton (c : Nat) (hc : 0 < c) (b : Byte) : chunksOf c [b] = [[b]] := by
  have h1 : [b].length ≤ c := hc
  rw [chunksOf_cons c hc _ (by simp), List.drop_of_length_le h1, List.take_of_length_le h1, chunksOf_nil c hc]

/-- SEND_COMMAND with its write taken whole (R111), in front of further lines. -/
theorem advance_command (op : OpName) (c : Cfg) (opcode : Byte) (ms : List Line) (s : State) (hcfg : s.cfg = c)
    (hc : 0 < c.chunk) (hf : s.AllFull 1) :
    advance op (sendCommandLines c opcode ++ ms) s =
      advance op ms ((s.told (commandTrace opcode) 1 0).atLines 0#1 (deassertLevel c)) := by
  have hf' : (s.setDc Config.dcCommandLevel).AllFull (writesOf c.chunk [opcode]) := by
    rw [writesOf_singleton c.chunk hc]; exact hf
  unfold sendCommandLines
  rw [List.cons_append, advance_cons_next (t := s.setDc Config.dcCommandLevel) rfl,
    advance_transfer op c [opcode] ms (s.setDc Config.dcCommandLevel) hcfg hc hf']
  simp [State.atLines, State.told, State.setDc, transferTrace, commandTrace, writesOf_singleton c.chunk hc, chunksOf_singleton c.chunk hc,
    Config.dcCommandLevel]

/-- SEND_DATA with every write taken whole (R112), in front of further lines. -/
theorem advance_data (op : OpName) (c : Cfg) (bytes : List Byte) (ms : List Line) (s : State) (hcfg : s.cfg = c)
    (hc : 0 < c.chunk) (hf : s.AllFull (writesOf c.chunk bytes)) :
    advance op (sendDataLines c bytes ++ ms) s =
      advance op ms (if elided c bytes then s else
        (s.told (dataTrace c bytes) (writesOf c.chunk bytes) 0).atLines 1#1 (deassertLevel c)) := by
  have hf' : (s.setDc Config.dcDataLevel).AllFull (writesOf c.chunk bytes) := hf
  unfold sendDataLines
  by_cases he : elided c bytes = true
  · rw [if_pos (show (bytes.isEmpty && c.elideEmptyData) = true from he), if_pos he, List.nil_append]
  · rw [if_neg (show ¬(bytes.isEmpty && c.elideEmptyData) = true from he), if_neg he, List.cons_append,
      advance_cons_next (t := s.setDc Config.dcDataLevel) rfl,
      advance_transfer op c bytes ms (s.setDc Config.dcDataLevel) hcfg hc hf']
    simp [State.atLines, State.told, State.setDc, dataTrace, he, Config.dcDataLevel]

/-- SEND with every write taken whole (R113), in front of further lines. -/
theorem advance_send (op : OpName) (c : Cfg) (opcode : Byte) (payload : List Byte) (ms : List Line) (s : State)
    (hcfg : s.cfg = c) (hc : 0 < c.chunk) (hf : s.AllFull (sendWrites c payload)) :
    advance op (sendLines c opcode payload ++ ms) s =
      advance op ms (s.sentOn (sendTrace c opcode payload) (sendWrites c payload) 0 payload) := by
  have hf1 : s.AllFull 1 := fun j hj => hf j (by unfold sendWrites; omega)
  have hf2 : ((s.told (commandTrace opcode) 1 0).atLines 0#1 (deassertLevel c)).AllFull (writesOf c.chunk payload) := by
    intro j hj
    rw [← hf (1 + j) (by unfold sendWrites; omega), ← State.wrDrawAt_told s (commandTrace opcode) 1 0 j]
    rfl
  rw [sendLines, List.append_assoc, advance_command op c opcode _ s hcfg hc hf1,
    advance_data op c payload ms ((s.told (commandTrace opcode) 1 0).atLines 0#1 (deassertLevel c)) hcfg hc hf2]
  by_cases he : elided c payload = true
  · have hp : payload = [] := by
      unfold elided at he
      simpa using (Bool.and_eq_true_iff.mp he).1
    rw [if_pos he, hp]
    rw [hp] at he
    simp [State.sentOn, State.atLines, State.told, sendTrace, dataTrace, he, sendWrites, writesOf_nil c.chunk hc, dcAfterSend, hcfg]
  · rw [if_neg he]
    rw [show ((s.told (commandTrace opcode) 1 0).atLines 0#1 (deassertLevel c)).told (dataTrace c payload)
        (writesOf c.chunk payload) 0 = (s.told (sendTrace c opcode payload) (sendWrites c payload) 0).atLines 0#1
        (deassertLevel c) by
      show ((s.told (commandTrace opcode) 1 0).told (dataTrace c payload) (writesOf c.chunk payload) 0).atLines 0#1
        (deassertLevel c) = _
      rw [State.told_told]; rfl]
    simp [State.sentOn, State.atLines, dcAfterSend, he, hcfg]

/-- The next busy level of a state an undisturbed bus phase leaves. -/
theorem State.busyAt_sentOn (s : State) (es : List Event) (nw nb : Nat) (last : List Byte) (j : Nat) :
    (s.sentOn es nw nb last).busyAt j = s.busyAt (nb + j) := by
  rw [← State.busyAt_told s es nw nb j]
  rfl

/-- The write decisions of a state an undisturbed bus phase leaves. -/
theorem State.wrDrawAt_sentOn (s : State) (es : List Event) (nw nb : Nat) (last : List Byte) (j : Nat) :
    (s.sentOn es nw nb last).wrDrawAt j = s.wrDrawAt (nw + j) := by
  rw [← State.wrDrawAt_told s es nw nb j]
  rfl

theorem State.allFull_sentOn {s : State} {n m : Nat} (es : List Event) (nb : Nat) (last : List Byte)
    (h : s.AllFull (n + m)) : (s.sentOn es n nb last).AllFull m := by
  intro j hj
  rw [State.wrDrawAt_sentOn]
  exact h _ (by omega)

theorem State.AllFull.mono {s : State} {n m : Nat} (h : s.AllFull n) (hm : m ≤ n) : s.AllFull m :=
  fun j hj => h j (by omega)

/-- Two bus phases after each other are one: the second one's last command counts. -/
theorem State.sentOn_sentOn (s : State) (es fs : List Event) (nw nb mw mb : Nat) (p q : List Byte) :
    (s.sentOn es nw nb p).sentOn fs mw mb q = s.sentOn (es ++ fs) (nw + mw) (nb + mb) q := by
  simp [State.sentOn, State.atLines, State.told, Nat.add_assoc]

end Sys2Proof.Machine
end

