-- ==== Sys2Proof/Laws/Panel.lean ====
section
/-! SUPPORT. The waits and tables of the panel operations where every write is taken whole: one turn of the poll loop for
each outcome of its sample, a wait that finds the panel idle at once, and the table loops. -/

namespace Sys2Proof.Machine

theorem State.setDc_comm_told (s : State) (es : List Event) (nw nb : Nat) (e : Event) :
    (s.told es nw nb).emit e = s.told (es ++ [e]) nw nb := by
  simp [State.emit, State.told]

/-- The state in which a poll iteration takes its sample (R133). -/
def State.beforeSample (s : State) (c : Cfg) : State :=
  s.sentOn (sendTrace c c.opGetStatus c.plGetStatus ++ [.dly 20]) (pollWrites c) 0 c.plGetStatus

/-- One poll iteration up to its sample (R133). -/
theorem advance_poll (op : OpName) (c : Cfg) (ms : List Line) (s : State) (hcfg : s.cfg = c) (hc : 0 < c.chunk)
    (hf : s.AllFull (pollWrites c)) :
    advance op (pollLines c ++ ms) s = advance op (.sample :: ms) (s.beforeSample c) := by
  unfold pollLines
  rw [List.append_assoc, advance_send op c _ _ _ s hcfg hc hf, List.cons_append, advance_cons_next rfl]
  simp [State.beforeSample, State.sentOn, State.atLines, State.told, State.emit, Config.tPoll, pollWrites]

theorem State.beforeSample_busyAt (s : State) (c : Cfg) (j : Nat) : (s.beforeSample c).busyAt j = s.busyAt j := by
  rw [State.beforeSample, State.busyAt_sentOn, Nat.zero_add]

/-- The state after a whole poll iteration (R133). -/
theorem State.sampleBusy_beforeSample (s : State) (c : Cfg) :
    (s.beforeSample c).sampleBusy =
      ((s.sentOn (pollTrace c (s.busyAt 0)) (pollWrites c) 1 c.plGetStatus).atPolls (s.polls + 1)) := by
  simp [State.sampleBusy, State.beforeSample_busyAt]
  simp [State.beforeSample, State.sentOn, State.atLines, State.told, State.atPolls, pollTrace, List.append_assoc]

/-- A poll iteration whose sample is idle goes on (R133). -/
theorem advance_poll_idle (op : OpName) (c : Cfg) (ms : List Line) (s : State) (hcfg : s.cfg = c) (hc : 0 < c.chunk)
    (hf : s.AllFull (pollWrites c)) (hi : s.busyAt 0 = c.busyIdleLevel) :
    advance op (pollLines c ++ ms) s = advance op ms
      ((s.sentOn (pollTrace c (s.busyAt 0)) (pollWrites c) 1 c.plGetStatus).atPolls (s.polls + 1)) := by
  rw [advance_poll op c ms s hcfg hc hf, ← State.sampleBusy_beforeSample]
  refine advance_cons_next ?_
  have h1 : (s.beforeSample c).cfg = c := hcfg
  simp [runLine, isIdleLevel, h1, State.beforeSample_busyAt, hi]

/-- A poll iteration whose sample is not idle parks at the head of the next turn while the budget lasts (R133). -/
theorem advance_poll_busy (op : OpName) (c : Cfg) (ms : List Line) (s : State) (hcfg : s.cfg = c) (hc : 0 < c.chunk)
    (hf : s.AllFull (pollWrites c)) (hi : s.busyAt 0 ≠ c.busyIdleLevel) (hb : budgetSpent c (s.polls + 1) = false) :
    advance op (pollLines c ++ ms) s =
      ((s.sentOn (pollTrace c (s.busyAt 0)) (pollWrites c) 1 c.plGetStatus).atPolls (s.polls + 1)).atSeq
        (.running op (pollLines c ++ ms)) := by
  subst hcfg
  have h1 : (s.beforeSample s.cfg).cfg = s.cfg := rfl
  have h2 : (s.beforeSample s.cfg).polls = s.polls := rfl
  rw [advance_poll op s.cfg ms s rfl hc hf]
  simp only [advance, runLine, isIdleLevel, h1, h2, State.beforeSample_busyAt, hi, decide_false, Bool.false_eq_true,
    if_false, hb, State.sampleBusy_cfg]
  rw [State.sampleBusy_beforeSample]
  rfl

/-- A poll iteration whose sample is not idle and uses up the budget raises BusyTimeout (R133, R223). -/
theorem advance_poll_timeout (op : OpName) (c : Cfg) (ms : List Line) (s : State) (hcfg : s.cfg = c) (hc : 0 < c.chunk)
    (hf : s.AllFull (pollWrites c)) (hi : s.busyAt 0 ≠ c.busyIdleLevel) (hb : budgetSpent c (s.polls + 1) = true) :
    advance op (pollLines c ++ ms) s =
      State.raiseIn op (.busyTimeout (s.polls + 1))
        ((s.sentOn (pollTrace c (s.busyAt 0)) (pollWrites c) 1 c.plGetStatus).atPolls (s.polls + 1)) := by
  have h1 : (s.beforeSample c).cfg = c := hcfg
  have h2 : (s.beforeSample c).polls = s.polls := rfl
  rw [advance_poll op c ms s hcfg hc hf]
  simp only [advance, runLine, isIdleLevel, h1, h2, State.beforeSample_busyAt, hi, decide_false, Bool.false_eq_true,
    if_false, hb, if_true]
  rw [State.sampleBusy_beforeSample]

/-- A wait that finds the panel idle at the first sample (R133, S5), in front of further lines. -/
theorem advance_wait_idle (op : OpName) (c : Cfg) (ms : List Line) (s : State) (hcfg : s.cfg = c) (hc : 0 < c.chunk)
    (hf : s.AllFull (pollWrites c)) (hi : s.busyAt 0 = c.busyIdleLevel) :
    advance op (waitLines c ++ ms) s =
      advance op ms ((s.sentOn (idleTrace c) (pollWrites c) 1 c.plGetStatus).atPolls 1) := by
  have hz : (s.atPolls 0).AllFull (pollWrites c) := hf
  unfold waitLines
  rw [List.cons_append, advance_cons_next (t := s.atPolls 0) rfl, List.append_assoc,
    advance_poll_idle op c _ (s.atPolls 0) hcfg hc hz hi, List.singleton_append, advance_cons_next rfl]
  have hb : (s.atPolls 0).busyAt 0 = c.busyIdleLevel := hi
  rw [hb]
  simp [State.atPolls, State.emit, State.sentOn, State.atLines, State.told, idleTrace, Config.tSettle]

/-- The table loop of INIT with every write taken whole (R132), in front of further lines; a table that is empty sends
nothing. -/
theorem advance_table (op : OpName) (c : Cfg) (ms : List Line) (table : List (Byte × List Byte)) (s : State)
    (hcfg : s.cfg = c) (hc : 0 < c.chunk) (hf : s.AllFull (tableWrites c table)) :
    advance op (tableLines c table ++ ms) s =
      advance op ms (match table.getLast? with
        | none => s
        | some e => s.sentOn (tableTrace c table) (tableWrites c table) 0 e.2) := by
  induction table generalizing s with
  | nil => rfl
  | cons e rest ih =>
    obtain ⟨opc, pl⟩ := e
    have hw : tableWrites c ((opc, pl) :: rest) = sendWrites c pl + tableWrites c rest := by simp [tableWrites]
    rw [hw] at hf ⊢
    rw [tableLines, List.append_assoc, advance_send op c opc pl _ s hcfg hc (hf.mono (by omega)),
      ih (s.sentOn (sendTrace c opc pl) (sendWrites c pl) 0 pl) hcfg (State.allFull_sentOn _ _ _ hf)]
    cases rest with
    | nil => simp [tableTrace, tableWrites]
    | cons e' rest' =>
      rw [List.getLast?_cons_cons]
      obtain ⟨x, hx⟩ : ∃ x, (e' :: rest').getLast? = some x := ⟨_, List.getLast?_eq_some_getLast (by simp)⟩
      rw [hx]
      simp only [State.sentOn_sentOn, Nat.add_zero]
      rfl

/-- The plan loop of PANEL_CLEAR is the table loop over the plan's sends (R136). -/
theorem planLines_eq_tableLines (c : Cfg) (n : Nat) (plan : List (Byte × Byte)) :
    planLines c n plan = tableLines c (planTable plan n) := by
  induction plan with
  | nil => rfl
  | cons e rest ih => simp [planLines, planTable, tableLines, ih]

/-- A state whose next write decisions and busy levels are another's from some point on. -/
theorem State.AllFull.of_drop {s t : State} {n k m : Nat} (h : s.AllFull n) (hq : t.wrQueue = s.wrQueue.drop k)
    (hc : t.wrCount = s.wrCount + k) (hm : k + m ≤ n) : t.AllFull m := by
  intro j hj
  rw [← h (k + j) (by omega)]
  simp [State.wrDrawAt, hq, hc, Nat.add_assoc]

/-- REFRESH_SEQ that finds the panel idle at the first sample (R134), in front of further lines. -/
theorem advance_refresh (op : OpName) (c : Cfg) (ms : List Line) (s : State) (hcfg : s.cfg = c) (hc : 0 < c.chunk)
    (hf : s.AllFull (refreshWrites c)) (hi : s.busyAt 0 = c.busyIdleLevel) :
    advance op (refreshLines c ++ ms) s =
      advance op ms ((s.sentOn (refreshTrace c) (refreshWrites c) 1 c.plGetStatus).atPolls 1) := by
  have hw : refreshWrites c = sendWrites c c.plRefresh + pollWrites c := rfl
  unfold refreshLines
  rw [List.append_assoc, advance_send op c _ _ _ s hcfg hc (hf.mono (by omega)), List.cons_append, advance_cons_next rfl,
    advance_wait_idle op c ms _ (by exact hcfg) hc (hf.of_drop (k := sendWrites c c.plRefresh) rfl rfl (by omega)) ?_]
  · simp [State.sentOn, State.told, State.atPolls, State.atLines, refreshTrace, hw, State.emit, Config.tRefresh,
      Nat.add_assoc]
  · rw [← hi, ← Nat.zero_add 0, ← State.busyAt_sentOn s (sendTrace c c.opRefresh c.plRefresh) (sendWrites c c.plRefresh) 0
      c.plRefresh 0]
    rfl

end Sys2Proof.Machine
end

