-- ==== Sys2Proof/Laws/PerInstr.lean ====
section
/-! SUPPORT. Per instruction: its encoded form is in the format of its row of spec/opcode_table.json and carries the row's
fixed bits, under every configuration. -/

namespace Sys2Proof.Laws.Encoding

/-- The format of an instruction's row, and its fixed bits where the row has some. -/
def row : Instr → Format × Option Nat
  | .transfer _ => (.hostop, some 0x01)
  | .sendCommand _ => (.hostop, some 0x02)
  | .sendData _ => (.hostop, some 0x03)
  | .send _ _ => (.hostop, some 0x04)
  | .reset => (.hostop, some 0x10)
  | .init => (.hostop, some 0x11)
  | .waitUntilIdle => (.hostop, some 0x12)
  | .sleep => (.hostop, some 0x15)
  | .draw2 _ _ => (.hostop, some 0x16)
  | .monoDraw _ => (.hostop, some 0x13)
  | .bichroDraw _ => (.hostop, some 0x13)
  | .monoClear _ => (.hostop, some 0x14)
  | .bichroClear _ => (.hostop, some 0x14)
  | .packMono _ => (.hostop, some 0x20)
  | .getPixel _ _ _ => (.hostop, some 0x21)
  | .setPixel _ _ _ _ => (.hostop, some 0x22)
  | .packBichro _ _ => (.hostop, some 0x23)
  | .powerSetting _ => (.wirecmd, none)
  | .panelSetting _ => (.wirecmd, none)
  | .pllControl _ => (.wirecmd, none)
  | .vcomDataInterval _ => (.wirecmd, none)
  | .boosterSoftStart _ => (.wirecmd, none)
  | .tconResolution _ => (.wirecmd, none)
  | .dataStart _ => (.wirecmd, none)
  | .dataStart2 _ => (.wirecmd, none)
  | .displayRefresh _ => (.wirecmd, none)
  | .powerOff _ => (.wirecmd, none)
  | .deepSleep _ => (.wirecmd, none)
  | .getStatus _ => (.wirecmd, none)
  | .pixelBlack => (.nibble, some 0x0)
  | .pixelWhite => (.nibble, some 0x3)
  | .pixelColor => (.nibble, some 0x4)
  | .frameByte _ _ => (.framebyte, none)
  | .monoByte _ _ _ _ _ _ _ _ => (.monobyte, none)

/-- The bits of an encoded form that are compared with a row's fixed bits. -/
def leadingBits : Encoded → Nat
  | .hostop opsel _ => opsel.toNat
  | .wirecmd opcode _ => opcode.toNat
  | .nibble bits => bits.toNat
  | .framebyte bits => bits.toNat
  | .monobyte bits => bits.toNat

/-- The instruction's encoded form is one of its row. -/
def Statement (i : Instr) : Prop :=
  ∀ c : Cfg, (encode c i).format = (row i).1 ∧ ∀ v, (row i).2 = some v → leadingBits (encode c i) = v

theorem transfer (bytes : Buf) : Statement (.transfer bytes) :=
  fun _ => ⟨rfl, fun _ h => by cases h; rfl⟩
theorem sendCommand (opcode : Byte) : Statement (.sendCommand opcode) :=
  fun _ => ⟨rfl, fun _ h => by cases h; rfl⟩
theorem sendData (bytes : Buf) : Statement (.sendData bytes) :=
  fun _ => ⟨rfl, fun _ h => by cases h; rfl⟩
theorem send (opcode : Byte) (payload : Buf) : Statement (.send opcode payload) :=
  fun _ => ⟨rfl, fun _ h => by cases h; rfl⟩
theorem reset : Statement .reset :=
  fun _ => ⟨rfl, fun _ h => by cases h; rfl⟩
theorem init : Statement .init :=
  fun _ => ⟨rfl, fun _ h => by cases h; rfl⟩
theorem waitUntilIdle : Statement .waitUntilIdle :=
  fun _ => ⟨rfl, fun _ h => by cases h; rfl⟩
theorem sleep : Statement .sleep :=
  fun _ => ⟨rfl, fun _ h => by cases h; rfl⟩
theorem draw2 (blackPlane colorPlane : Buf) : Statement (.draw2 blackPlane colorPlane) :=
  fun _ => ⟨rfl, fun _ h => by cases h; rfl⟩
theorem monoDraw (buffer : Buf) : Statement (.monoDraw buffer) :=
  fun _ => ⟨rfl, fun _ h => by cases h; rfl⟩
theorem bichroDraw (buffer : Buf) : Statement (.bichroDraw buffer) :=
  fun _ => ⟨rfl, fun _ h => by cases h; rfl⟩
theorem monoClear (black : Bool) : Statement (.monoClear black) :=
  fun _ => ⟨rfl, fun _ h => by cases h; rfl⟩
theorem bichroClear (black : Bool) : Statement (.bichroClear black) :=
  fun _ => ⟨rfl, fun _ h => by cases h; rfl⟩
theorem packMono (px : PixelMap) : Statement (.packMono px) :=
  fun _ => ⟨rfl, fun _ h => by cases h; rfl⟩
theorem getPixel (buf : Buf) (x y : Int) : Statement (.getPixel buf x y) :=
  fun _ => ⟨rfl, fun _ h => by cases h; rfl⟩
theorem setPixel (buf : Buf) (x y : Int) (v : Bool) : Statement (.setPixel buf x y v) :=
  fun _ => ⟨rfl, fun _ h => by cases h; rfl⟩
theorem packBichro (blackPlane colorPlane : Buf) : Statement (.packBichro blackPlane colorPlane) :=
  fun _ => ⟨rfl, fun _ h => by cases h; rfl⟩
theorem powerSetting (payload : List Byte) : Statement (.powerSetting payload) :=
  fun _ => ⟨rfl, fun _ h => by cases h⟩
theorem panelSetting (payload : List Byte) : Statement (.panelSetting payload) :=
  fun _ => ⟨rfl, fun _ h => by cases h⟩
theorem pllControl (payload : List Byte) : Statement (.pllControl payload) :=
  fun _ => ⟨rfl, fun _ h => by cases h⟩
theorem vcomDataInterval (payload : List Byte) : Statement (.vcomDataInterval payload) :=
  fun _ => ⟨rfl, fun _ h => by cases h⟩
theorem boosterSoftStart (payload : List Byte) : Statement (.boosterSoftStart payload) :=
  fun _ => ⟨rfl, fun _ h => by cases h⟩
theorem tconResolution (payload : List Byte) : Statement (.tconResolution payload) :=
  fun _ => ⟨rfl, fun _ h => by cases h⟩
theorem dataStart (payload : List Byte) : Statement (.dataStart payload) :=
  fun _ => ⟨rfl, fun _ h => by cases h⟩
theorem dataStart2 (payload : List Byte) : Statement (.dataStart2 payload) :=
  fun _ => ⟨rfl, fun _ h => by cases h⟩
theorem displayRefresh (payload : List Byte) : Statement (.displayRefresh payload) :=
  fun _ => ⟨rfl, fun _ h => by cases h⟩
theorem powerOff (payload : List Byte) : Statement (.powerOff payload) :=
  fun _ => ⟨rfl, fun _ h => by cases h⟩
theorem deepSleep (payload : List Byte) : Statement (.deepSleep payload) :=
  fun _ => ⟨rfl, fun _ h => by cases h⟩
theorem getStatus (payload : List Byte) : Statement (.getStatus payload) :=
  fun _ => ⟨rfl, fun _ h => by cases h⟩
theorem pixelBlack : Statement .pixelBlack :=
  fun _ => ⟨rfl, fun _ h => by cases h; rfl⟩
theorem pixelWhite : Statement .pixelWhite :=
  fun _ => ⟨rfl, fun _ h => by cases h; rfl⟩
theorem pixelColor : Statement .pixelColor :=
  fun _ => ⟨rfl, fun _ h => by cases h; rfl⟩
theorem frameByte (left right : PixelCode) : Statement (.frameByte left right) :=
  fun _ => ⟨rfl, fun _ h => by cases h⟩
theorem monoByte (a b c d e f g h : Bool) : Statement (.monoByte a b c d e f g h) :=
  fun _ => ⟨rfl, fun _ h => by cases h⟩

end Sys2Proof.Laws.Encoding
end

