-- ==== Sys2Proof/Laws/Step.lean ====
section
/-! SUPPORT. What a step can do, said once: the start checks, what running lines keeps and how it ends, what starting any
instruction can answer, and the three kinds of step. -/

namespace Sys2Proof.Machine

/-! ### The checks of a start -/

theorem State.whenIdle_of {s : State} {k : Out} (h : s.seq = .idle) : s.whenIdle k = k := by simp [State.whenIdle, h]

theorem State.launch_of {s : State} {op : OpName} {ls : List Line} (h : 0 < s.cfg.chunk) :
    s.launch op ls = .next (advance op ls s) := by
  simp [State.launch, Nat.pos_iff_ne_zero.mp h]

theorem State.admitted_of {s : State} {op : OpName} {need : St} {k : Out} (h : s.st = need) : s.admitted op need k = k := by
  simp [State.admitted, h]

theorem State.admitted_of_ne {s : State} {op : OpName} {need : St} {k : Out} (h : s.st ≠ need) :
    s.admitted op need k = .next (s.raiseIn op (.invalidState s.st)) := by
  simp [State.admitted, h]

theorem State.checkLen_of {s : State} {op : OpName} {got wanted : Nat} {k : Out} (h : got = wanted) :
    s.checkLen op got wanted k = k := by
  simp [State.checkLen, h]

theorem State.checkLen_of_ne {s : State} {op : OpName} {got wanted : Nat} {k : Out} (h : got ≠ wanted) :
    s.checkLen op got wanted k = .next (s.raiseIn op (.invalidBufferSize got wanted)) := by
  simp [State.checkLen, h]

theorem State.onVariant_of {s : State} {v : Variant} {k : Out} (h : s.cfg.variant = v) : s.onVariant v k = k := by
  simp [State.onVariant, h]

/-- After an error that is no TransportError chip-select is as it was (R227). -/
theorem State.raiseIn_csL_of_ne (s : State) (op : OpName) (e : Err) (h : ∀ o k r, e ≠ .transport o k r) :
    (s.raiseIn op e).csL = s.csL := by
  cases e <;> simp_all [State.raiseIn, State.markFault, State.loseCs, State.finish] <;> split <;> rfl

/-- After an error that is no TransportError no unspecified level has been drawn. -/
theorem State.raiseIn_free_of_ne (s : State) (op : OpName) (e : Err) (h : ∀ o k r, e ≠ .transport o k r) :
    (s.raiseIn op e).free = s.free := by
  cases e <;> simp_all [State.raiseIn, State.markFault, State.loseCs, State.finish] <;> split <;> rfl

/-! ### Running lines -/

/-- What doing lines leaves as it was, whichever they are. -/
structure LinesKeep (s u : State) : Prop where
  cfg : u.cfg = s.cfg
  seq : u.seq = s.seq
  program : u.program = s.program
  onError : u.onError = s.onError
  bufs : u.bufs = s.bufs
  returns : u.returns = s.returns
  free : u.free = s.free
  trace : s.trace <+: u.trace
  wrCount : s.wrCount ≤ u.wrCount
  busyCount : s.busyCount ≤ u.busyCount

theorem LinesKeep.refl (s : State) : LinesKeep s s :=
  ⟨rfl, rfl, rfl, rfl, rfl, rfl, rfl, List.prefix_rfl, Nat.le_refl _, Nat.le_refl _⟩

theorem LinesKeep.trans {s u v : State} (h : LinesKeep s u) (k : LinesKeep u v) : LinesKeep s v :=
  ⟨k.cfg.trans h.cfg, k.seq.trans h.seq, k.program.trans h.program, k.onError.trans h.onError, k.bufs.trans h.bufs,
   k.returns.trans h.returns, k.free.trans h.free, h.trace.trans k.trace, h.wrCount.trans k.wrCount,
   h.busyCount.trans k.busyCount⟩

theorem LinesKeep.of_next {l : Line} {s t : State} (h : runLine l s = .next t) : LinesKeep s t := by
  rcases runLine_next h with ⟨v, -, rfl⟩ | ⟨v, -, rfl⟩ | ⟨-, rfl⟩ | ⟨-, rfl⟩ | ⟨o, k, -, -, rfl⟩ | ⟨m, -, rfl⟩ | ⟨-, rfl⟩ |
    ⟨-, -, rfl⟩ | ⟨st, -, rfl⟩ <;>
  exact ⟨rfl, rfl, rfl, rfl, rfl, rfl, rfl, by simp, by simp, by simp⟩

theorem LinesKeep.of_raise {l : Line} {s t : State} {e : Err} (h : runLine l s = .raise e t) : LinesKeep s t := by
  rcases runLine_raise h with ⟨o, k, -, -, -, rfl⟩ | ⟨-, -, -, -, rfl⟩ <;>
  exact ⟨rfl, rfl, rfl, rfl, rfl, rfl, rfl, by simp, by simp, by simp⟩

theorem LinesKeep.of_busy {l : Line} {s t : State} (h : runLine l s = .busy t) : LinesKeep s t := by
  obtain ⟨-, -, -, rfl⟩ := runLine_busy h
  exact ⟨rfl, rfl, rfl, rfl, rfl, rfl, rfl, by simp, by simp, by simp⟩

/-- An error a line raises is one of the bus phase (R138). -/
theorem busPhase_of_raise {l : Line} {s t : State} {e : Err} (h : runLine l s = .raise e t) : busPhase e = true := by
  rcases runLine_raise h with ⟨o, k, -, -, rfl, -⟩ | ⟨-, -, -, rfl, -⟩ <;> rfl

/-- Running lines ends in one of three ways: the operation returns Ok, an error of the bus phase is raised in it, or it stands
at the head of the next turn of its poll loop with what followed a sample among its lines (R9, R27, R133). -/
theorem advance_cases (op : OpName) (ls : List Line) (s : State) :
    ∃ u, LinesKeep s u ∧
      (advance op ls s = u.finish (.ok .unit) ∨ (∃ e, busPhase e = true ∧ advance op ls s = u.raiseIn op e) ∨
        ∃ pre post, ls = pre ++ .sample :: post ∧ 1 ≤ u.polls ∧ budgetSpent u.cfg u.polls = false ∧
          advance op ls s = u.atSeq (.running op (pollLines u.cfg ++ post))) := by
  induction ls generalizing s with
  | nil => exact ⟨s, .refl s, .inl rfl⟩
  | cons l ls ih =>
    cases hr : runLine l s with
    | next t =>
      obtain ⟨u, hu, h⟩ := ih t
      refine ⟨u, (LinesKeep.of_next hr).trans hu, ?_⟩
      rw [advance_cons_next hr]
      rcases h with h | h | ⟨pre, post, rfl, h⟩
      · exact .inl h
      · exact .inr (.inl h)
      · exact .inr (.inr ⟨l :: pre, post, rfl, h⟩)
    | raise e t =>
      exact ⟨t, .of_raise hr, .inr (.inl ⟨e, busPhase_of_raise hr, by simp [advance, hr]⟩)⟩
    | busy t =>
      obtain ⟨rfl, -, hb, ht⟩ := runLine_busy hr
      refine ⟨t, .of_busy hr, .inr (.inr ⟨[], ls, rfl, ?_, ?_, by simp [advance, hr, State.atSeq]⟩)⟩
      · subst ht; exact Nat.le_add_left _ _
      · subst ht; exact hb

@[simp] theorem advance_cfg (op : OpName) (ls : List Line) (s : State) : (advance op ls s).cfg = s.cfg := by
  obtain ⟨u, hu, h | ⟨e, -, h⟩ | ⟨_, _, _, _, _, h⟩⟩ := advance_cases op ls s <;> rw [h]
  · exact hu.cfg
  · simpa using hu.cfg
  · exact hu.cfg

@[simp] theorem advance_bufs (op : OpName) (ls : List Line) (s : State) : (advance op ls s).bufs = s.bufs := by
  obtain ⟨u, hu, h | ⟨e, -, h⟩ | ⟨_, _, _, _, _, h⟩⟩ := advance_cases op ls s <;> rw [h]
  · exact hu.bufs
  · simpa using hu.bufs
  · exact hu.bufs

/-- Lines that do not drive the reset line leave its latch (R22). -/
theorem advance_rstL (op : OpName) (ls : List Line) (s : State) (h : ∀ v, .setRst v ∉ ls) :
    (advance op ls s).rstL = s.rstL := by
  refine advance_induction (P := fun ls t => (∀ v, .setRst v ∉ ls) ∧ t.rstL = s.rstL) (Q := fun t => t.rstL = s.rstL)
    (fun _ h => h.2) ?_ ?_ ?_ ls s ⟨h, rfl⟩
  · rintro l ls t u ⟨hn, ht⟩ hl
    refine ⟨fun v hv => hn v (List.mem_cons_of_mem _ hv), ?_⟩
    rcases runLine_next hl with ⟨v, rfl, rfl⟩ | ⟨v, -, rfl⟩ | ⟨-, rfl⟩ | ⟨-, rfl⟩ | ⟨o, k, -, -, rfl⟩ | ⟨m, -, rfl⟩ | ⟨-, rfl⟩ |
      ⟨-, -, rfl⟩ | ⟨st, -, rfl⟩ <;> first | exact ht | exact absurd List.mem_cons_self (hn v)
  · rintro l ls t e u ⟨-, ht⟩ hl
    rcases runLine_raise hl with ⟨o, k, -, -, -, rfl⟩ | ⟨-, -, -, -, rfl⟩ <;> simpa using ht
  · rintro l ls t u ⟨-, ht⟩ hl
    obtain ⟨-, -, -, rfl⟩ := runLine_busy hl
    exact ht

/-- Running lines does not depend on where SEQ stood (R27). -/
theorem advance_atSeq (op : OpName) (ls : List Line) (s : State) (q : Seq) : advance op ls (s.atSeq q) = advance op ls s := by
  induction ls generalizing s with
  | nil => simp [advance, State.finish, State.atSeq]
  | cons l ls ih =>
    cases l with
    | wr off k =>
      simp only [advance, runLine, show (s.atSeq q).wrAnswer k.length = s.wrAnswer k.length from rfl]
      by_cases h : takenWhole k.length (s.wrAnswer k.length) = true
      · simp only [h, if_true]; exact ih (s.wr k)
      · simp only [h]
        simp [State.raiseIn, State.markFault, State.loseCs, State.finish, State.wr, State.atSeq, State.wrAnswer,
          State.wrDrawAt]
        split <;> simp
    | sample =>
      simp only [advance, runLine, show (s.atSeq q).busyAt 0 = s.busyAt 0 from rfl, show (s.atSeq q).cfg = s.cfg from rfl,
        show (s.atSeq q).polls = s.polls from rfl]
      by_cases h : isIdleLevel s.cfg (s.busyAt 0) = true
      · simp only [h, if_true]; exact ih s.sampleBusy
      · by_cases hb : budgetSpent s.cfg (s.polls + 1) = true
        · simp only [h, hb, if_true]
          simp [State.raiseIn, State.markFault, State.loseCs, State.finish, State.sampleBusy, State.atSeq, State.busyAt,
            busPhase]
          split <;> simp
        · simp only [h, hb]; rfl
    | setRst v => exact ih (s.setRst v)
    | setDc v => exact ih (s.setDc v)
    | csAssert => exact ih s.assertCs
    | csDeassert => exact ih s.deassertCs
    | delay ms => exact ih (s.emit (.dly ms))
    | pollsZero => exact ih (s.atPolls 0)
    | setSt st => exact ih (s.setSt st)

/-! ### Starting an instruction -/

/-- What starting an instruction can answer: a pure result, with at most one buffer operand stored; an error before the bus
phase; or what running the lines of an operation ends in. -/
inductive Started (s t : State) : Prop
  | gave (v : Value) (h : t = s.finish (.ok v))
  | stored (b : Buf) (bytes : List Byte) (v : Value) (h : t = (s.putBytes b bytes).finish (.ok v))
  | raised (op : OpName) (e : Err) (hb : busPhase e = false) (h : t = s.raiseIn op e)
  | ran (op : OpName) (ls : List Line) (h : t = advance op ls s)

/-- An instruction that answers a next state was started while SEQ was idle (R264). -/
theorem idle_of_exec {i : Instr} {s t : State} (h : exec i s = .next t) : s.seq = .idle := by
  cases hs : s.seq with
  | idle => rfl
  | running op ls =>
    cases i <;> simp [exec, execTransfer, execSendCommand, execSendData, execSend, execReset, execInit, execWaitUntilIdle,
      execSleep, execDraw2, execMonoDraw, execBichroDraw, execMonoClear, execBichroClear, execPackMono, execGetPixel,
      execSetPixel, execPackBichro, execPowerSetting, execPanelSetting, execPllControl, execVcomDataInterval,
      execBoosterSoftStart, execTconResolution, execDataStart, execDataStart2, execDisplayRefresh, execPowerOff, execDeepSleep,
      execGetStatus, wireCommand, execPixelBlack, execPixelWhite, execPixelColor, execFrameByte, execMonoByte, State.whenIdle,
      hs] at h

theorem exec_started {i : Instr} {s t : State} (h : exec i s = .next t) : Started s t := by
  have hs : s.seq = .idle := idle_of_exec h
  cases i <;> simp only [exec, execTransfer, execSendCommand, execSendData, execSend, execReset, execInit, execWaitUntilIdle,
    execSleep, execDraw2, execMonoDraw, execBichroDraw, execMonoClear, execBichroClear, execPackMono, execGetPixel,
    execSetPixel, execPackBichro, execPowerSetting, execPanelSetting, execPllControl, execVcomDataInterval,
    execBoosterSoftStart, execTconResolution, execDataStart, execDataStart2, execDisplayRefresh, execPowerOff, execDeepSleep,
    execGetStatus, wireCommand, execPixelBlack, execPixelWhite, execPixelColor, execFrameByte, execMonoByte,
    State.whenIdle_of hs, State.admitted, State.launch, State.onVariant, State.checkLen, drawPlanes, panelDraw, panelClear,
    State.give, putSurfacePixel] at h
  all_goals (repeat' split at h)
  all_goals cases h
  all_goals first
    | exact .ran _ _ rfl
    | exact .raised _ _ rfl rfl
    | exact .gave _ rfl
    | exact .stored _ _ _ rfl

/-! ### A step -/

/-- The three kinds of step: a running operation goes on; the host has nothing to start; the host's next operation is
started (R10, R27, R260). -/
theorem step_cases {s t : State} (h : step s = .next t) :
    (∃ op ls, s.seq = .running op ls ∧ t = advance op ls s) ∨ (s.seq = .idle ∧ s.program = [] ∧ t = s) ∨
    (s.seq = .idle ∧ ∃ w rest i, s.program = w :: rest ∧ decode s.cfg w = .ok i ∧
      exec i { s with program := rest } = .next t) := by
  unfold step State.work at h
  cases hs : s.seq with
  | running op ls => rw [hs] at h; cases h; exact .inl ⟨_, _, rfl, rfl⟩
  | idle =>
    rw [hs] at h
    cases hp : s.program with
    | nil => rw [hp] at h; cases h; exact .inr (.inl ⟨rfl, rfl, rfl⟩)
    | cons w rest =>
      rw [hp] at h
      cases hd : decode s.cfg w with
      | ok i => simp only [hd] at h; exact .inr (.inr ⟨rfl, w, rest, i, rfl, hd, h⟩)
      | error e => simp only [hd] at h; cases h

end Sys2Proof.Machine
end

