-- ==== Sys2Proof/Laws/WireStream.lean ====
section
/-! SUPPORT. The two readings of the wire stream agree on every trace whose frames were closed (log 20), the opcodes of a trace in
two parts, and the opcodes that running lines offers. -/

namespace Sys2Proof.Machine

/-- With no frame open, and with one open, the two readings give the same frames from here on. -/
theorem framesFrom_eq_framesAt (es : List Event) :
    (∀ dc, framesClosed false es = true → framesFrom dc none es = framesAt dc es) ∧
    (∀ dc f, framesClosed true es = true →
      framesFrom dc (some f) es = { f with data := f.data ++ frameData es } :: framesAt dc es) := by
  induction es with
  | nil => simp [framesFrom, framesAt, frameData]
  | cons e es ih =>
    obtain ⟨hn, ho⟩ := ih
    refine ⟨fun dc h => ?_, fun dc f h => ?_⟩
    · cases e <;> simp_all [framesFrom, framesAt, framesClosed]
    · cases e <;> simp_all [framesFrom, framesAt, framesClosed, frameData]

/-- Where every frame was closed the wire stream of R8 is the one of P4 (log 20). -/
theorem delimitedStream_eq_wireStream (es : List Event) (h : framesClosed false es = true) :
    delimitedStream es = wireStream es :=
  (framesFrom_eq_framesAt es).1 none h

/-- The DC level after a trace, given the one before it. -/
def dcThrough (dc : Option Level) : List Event → Option Level
  | [] => dc
  | .dc l :: es => dcThrough (some l) es
  | .wr _ _ :: es => dcThrough dc es
  | .csAssert :: es => dcThrough dc es
  | .csDeassert :: es => dcThrough dc es
  | .rst _ :: es => dcThrough dc es
  | .busy _ :: es => dcThrough dc es
  | .dly _ :: es => dcThrough dc es

/-- The opcodes of a trace in two parts are those of the parts, the second under the DC level the first one leaves. -/
theorem opcodesOffered_append (es fs : List Event) (dc : Option Level) :
    opcodesOffered dc (es ++ fs) = opcodesOffered dc es ++ opcodesOffered (dcThrough dc es) fs := by
  induction es generalizing dc with
  | nil => rfl
  | cons e es ih => cases e <;> simp [opcodesOffered, dcThrough, ih]

/-- The bytes that lines offer to the wire while DC is at the command level, each line done. -/
def lineOpcodes (dc : Option Level) : List Line → List Byte
  | [] => []
  | .setDc l :: ls => lineOpcodes (some l) ls
  | .wr _ chunk :: ls => (if dc = some Config.dcCommandLevel then chunk else []) ++ lineOpcodes dc ls
  | .csAssert :: ls => lineOpcodes dc ls
  | .csDeassert :: ls => lineOpcodes dc ls
  | .setRst _ :: ls => lineOpcodes dc ls
  | .delay _ :: ls => lineOpcodes dc ls
  | .pollsZero :: ls => lineOpcodes dc ls
  | .sample :: ls => lineOpcodes dc ls
  | .setSt _ :: ls => lineOpcodes dc ls

/-- Running lines offers no opcode that is not in the lines. -/
theorem advance_opcodes (op : OpName) (ls : List Line) (s : State) :
    ∃ es, (advance op ls s).trace = s.trace ++ es ∧ ∀ dc, ∀ b ∈ opcodesOffered dc es, b ∈ lineOpcodes dc ls := by
  induction ls generalizing s with
  | nil => exact ⟨[], by simp [advance, State.finish], by simp [opcodesOffered]⟩
  | cons l ls ih =>
    cases hr : runLine l s with
    | next t =>
      obtain ⟨es, he, hb⟩ := ih t
      rw [advance_cons_next hr]
      rcases runLine_next hr with ⟨v, rfl, rfl⟩ | ⟨v, rfl, rfl⟩ | ⟨rfl, rfl⟩ | ⟨rfl, rfl⟩ | ⟨o, k, rfl, -, rfl⟩ | ⟨m, rfl, rfl⟩ |
        ⟨rfl, rfl⟩ | ⟨rfl, -, rfl⟩ | ⟨st, rfl, rfl⟩
      all_goals first
        | exact ⟨es, he, hb⟩
        | refine ⟨_, by rw [he]; simp [State.wr]; rfl, fun dc b h => ?_⟩
          simp only [opcodesOffered, lineOpcodes, List.mem_append] at h ⊢
          first | exact hb _ b h | exact h.imp id (hb dc b)
    | raise e t =>
      have ha : advance op (l :: ls) s = t.raiseIn op e := by simp [advance, hr]
      rw [ha]
      rcases runLine_raise hr with ⟨o, k, rfl, -, -, rfl⟩ | ⟨rfl, -, -, -, rfl⟩
      · refine ⟨_, by simp; rfl, fun dc b h => ?_⟩
        simp only [opcodesOffered, lineOpcodes, List.append_nil, List.mem_append] at h ⊢
        exact .inl h
      · exact ⟨_, by simp; rfl, fun dc b h => by simp [opcodesOffered] at h⟩
    | busy t =>
      have ha : advance op (l :: ls) s = { t with seq := .running op (pollLines t.cfg ++ ls) } := by simp [advance, hr]
      rw [ha]
      obtain ⟨rfl, -, -, rfl⟩ := runLine_busy hr
      exact ⟨_, by simp; rfl, fun dc b h => by simp [opcodesOffered] at h⟩

/-- The chunks of a transfer offer bytes of it, and opcodes only under the command level. -/
theorem lineOpcodes_chunks (n o c : Nat) (l : List Byte) (dc : Option Level) (ls : List Line) :
    ∃ x, (∀ b ∈ x, b ∈ l ∧ dc = some Config.dcCommandLevel) ∧
      lineOpcodes dc (chunkLines c n o l ++ ls) = x ++ lineOpcodes dc ls := by
  induction n generalizing o l with
  | zero => exact ⟨[], by simp, rfl⟩
  | succ n ih =>
    cases l with
    | nil => exact ⟨[], by simp, rfl⟩
    | cons b bs =>
      obtain ⟨x, hx, h⟩ := ih (o + c) ((b :: bs).drop c)
      refine ⟨(if dc = some Config.dcCommandLevel then (b :: bs).take c else []) ++ x, ?_, ?_⟩
      · intro a ha
        rcases List.mem_append.mp ha with h1 | h1
        · split at h1
          · exact ⟨List.mem_of_mem_take h1, ‹_›⟩
          · cases h1
        · exact ⟨List.mem_of_mem_drop (hx a h1).1, (hx a h1).2⟩
      · simp only [chunkLines, List.cons_append, lineOpcodes, h, List.append_assoc]

/-- A wire command offers its opcode as the one opcode; what follows it goes out under the DC level it leaves. -/
theorem lineOpcodes_send (c : Cfg) (o : Byte) (pl : List Byte) (dc : Option Level) (ls : List Line) :
    ∃ dc', ∀ b ∈ lineOpcodes dc (sendLines c o pl ++ ls), b = o ∨ b ∈ lineOpcodes dc' ls := by
  simp only [sendLines, sendCommandLines, sendDataLines, transferLines, List.cons_append, List.append_assoc, lineOpcodes,
    List.nil_append]
  obtain ⟨x, hx, h⟩ := lineOpcodes_chunks [o].length 0 c.chunk [o] (some Config.dcCommandLevel)
    (.csDeassert :: ((if pl.isEmpty && c.elideEmptyData then [] else
      .setDc Config.dcDataLevel :: .csAssert :: (chunkLines c.chunk pl.length 0 pl ++ [.csDeassert])) ++ ls))
  rw [h]
  by_cases he : (pl.isEmpty && c.elideEmptyData) = true
  · refine ⟨some Config.dcCommandLevel, fun b hb => ?_⟩
    simp only [he, if_true, List.nil_append, lineOpcodes, List.mem_append] at hb
    exact hb.imp (fun h => by simpa using (hx b h).1) id
  · refine ⟨some Config.dcDataLevel, fun b hb => ?_⟩
    obtain ⟨y, hy, h'⟩ := lineOpcodes_chunks pl.length 0 c.chunk pl (some Config.dcDataLevel) (.csDeassert :: ls)
    simp only [he, Bool.false_eq_true, if_false, List.cons_append, List.append_assoc, List.nil_append, lineOpcodes, h',
      List.mem_append] at hb
    rcases hb with hb | hb | hb
    · exact .inl (by simpa using (hx b hb).1)
    · exact absurd (hy b hb).2 (by decide)
    · exact .inr hb

end Sys2Proof.Machine
end

