-- ==== Sys2Proof/Tests/Slice0.lean ====
section
/-! SUPPORT. Tests: an ill-formed term for each check of WellFormed, a word of each row written out from the spec's tables, one
or two steps of each operation against 95_test_vectors.md, and for each obligation with hypotheses a state that meets them. -/

namespace Sys2Proof.Tests

open Sys2Proof.Machine

/-- A controller with a configuration, a protocol state and the environment's next answers. -/
def mk (cfg : Cfg) (st : St) (w : List WrDraw) (busy : List Level) : State :=
  { State.construct cfg with st := st, wrQueue := w, busyQueue := busy }

/-- `n` writes taken whole. -/
def full (n : Nat) : List WrDraw := List.replicate n .full

/-- What a start appends to the trace, returns, and leaves in ST. -/
def ran (i : Instr) (s : State) : Option (List Event × Option Ret × St) :=
  match exec i s with
  | .next t => some (t.trace.drop s.trace.length, t.returns.getLast?, t.st)
  | .fault _ => none
  | .refused _ => none

/-- The bichromatic example configurations of section 2.3: W = 8. -/
def bichroCfg (h : Nat) : Cfg := { exampleCfg with w := 8, h := h, variant := .bichro, bichroClearLen := 8 * h / 2 }

/-- The monochrome byte list of V-D1. -/
def plane : List Byte := [0xFF#8, 0x00#8, 0x0F#8, 0xF0#8]

/-! ### WellFormed: each check refuses an ill-formed term -/

theorem test_wf_example : exampleCfg.wf = true := by decide
theorem test_wf_bichro : (bichroCfg 2).wf = true := by decide
theorem test_wf_width : Cfg.wf { exampleCfg with w := 0, bichroClearLen := 0 } = false := by decide
theorem test_wf_height : Cfg.wf { exampleCfg with h := 0, bichroClearLen := 0 } = false := by decide
theorem test_wf_chunk : Cfg.wf { exampleCfg with chunk := 0 } = false := by decide
theorem test_wf_budget : Cfg.wf { exampleCfg with pollBudget := some 0 } = false := by decide
theorem test_wf_opcodes : Cfg.wf { exampleCfg with opRefresh := 0x10#8 } = false := by decide
theorem test_wf_init_seq : Cfg.wf { exampleCfg with initSeq := exampleCfg.initSeq.drop 1 } = false := by decide
/-- R172, R173: a table with a data-start opcode in it. -/
theorem test_wf_init_seq_image :
    Cfg.wf { exampleCfg with initSeq := exampleCfg.initSeq ++ [(0x10#8, [])] } = false ∧
    Cfg.wf { exampleCfg with initSeq := exampleCfg.initSeq ++ [(0x13#8, [])] } = false ∧
    Cfg.wf { exampleCfg with initSeq := exampleCfg.initSeq ++ [(0x01#8, [])] } = true := by decide
/-- R162 b: a fill other than 0x00 and 0xFF. -/
theorem test_wf_clear_fill : Cfg.wf { exampleCfg with monoClearBlack := [(0x10#8, 0x33#8)] } = false := by decide
/-- R162 c: the first entry is not opcode A. -/
theorem test_wf_clear_opcode : Cfg.wf { exampleCfg with monoClearBlack := [(0x13#8, 0x00#8)] } = false := by decide
/-- R162 d: both plans have one entry. -/
theorem test_wf_clear_lengths : Cfg.wf { exampleCfg with monoClearWhite := [(0x10#8, 0xFF#8)] } = false := by decide
/-- R162 e: both first fills are the same. -/
theorem test_wf_clear_fills : Cfg.wf { exampleCfg with monoClearBlack := [(0x10#8, 0xFF#8)] } = false := by decide
theorem test_wf_clear_len : Cfg.wf { exampleCfg with bichroClearLen := 17 } = false := by decide
theorem test_wf_clear_len_original : Cfg.wf { exampleCfg with bichroClearLen := 16 * 2 * 4 } = true := by decide
theorem test_wf_draw2 : Instr.wf exampleCfg (.draw2 (.lit []) (.lit [])) = false := by decide
theorem test_wf_mono_draw : Instr.wf (bichroCfg 1) (.monoDraw (.lit [])) = false := by decide
theorem test_wf_bichro_draw : Instr.wf exampleCfg (.bichroDraw (.lit [])) = false := by decide
theorem test_wf_mono_clear : Instr.wf (bichroCfg 1) (.monoClear true) = false := by decide
theorem test_wf_bichro_clear : Instr.wf exampleCfg (.bichroClear true) = false := by decide
theorem test_wf_pack_mono : Instr.wf exampleCfg (.packMono { rows := [], rest := none }) = false := by decide
theorem test_wf_set_pixel : Instr.wf { exampleCfg with w := 10 } (.setPixel (.lit []) 0 0 true) = false := by decide

/-! ### Decode: a word of each row, written from the tables of R81, R86 (with CFG_EX's opcodes), R87, R88, R89 -/

theorem test_decode_transfer : decode exampleCfg (.hostop 0b00000001#8 [.buf (.lit [0x5A#8])]) = .ok (.transfer (.lit [0x5A#8])) := by decide
theorem test_decode_send_command : decode exampleCfg (.hostop 0b00000010#8 [.byte 0x12#8]) = .ok (.sendCommand 0x12#8) := by decide
theorem test_decode_send_data : decode exampleCfg (.hostop 0b00000011#8 [.buf (.ref 7)]) = .ok (.sendData (.ref 7)) := by decide
theorem test_decode_send : decode exampleCfg (.hostop 0b00000100#8 [.byte 0x12#8, .buf (.lit [])]) = .ok (.send 0x12#8 (.lit [])) := by decide
theorem test_decode_reset : decode exampleCfg (.hostop 0b00010000#8 []) = .ok (.reset) := by decide
theorem test_decode_init : decode exampleCfg (.hostop 0b00010001#8 []) = .ok (.init) := by decide
theorem test_decode_wait_until_idle : decode exampleCfg (.hostop 0b00010010#8 []) = .ok (.waitUntilIdle) := by decide
theorem test_decode_mono_draw : decode exampleCfg (.hostop 0b00010011#8 [.buf (.lit plane)]) = .ok (.monoDraw (.lit plane)) := by decide
theorem test_decode_bichro_draw : decode (bichroCfg 1) (.hostop 0b00010011#8 [.buf (.lit [0xF0#8])]) = .ok (.bichroDraw (.lit [0xF0#8])) := by decide
theorem test_decode_mono_clear : decode exampleCfg (.hostop 0b00010100#8 [.bit true]) = .ok (.monoClear true) := by decide
theorem test_decode_bichro_clear : decode (bichroCfg 1) (.hostop 0b00010100#8 [.bit false]) = .ok (.bichroClear false) := by decide
theorem test_decode_sleep : decode exampleCfg (.hostop 0b00010101#8 []) = .ok (.sleep) := by decide
theorem test_decode_draw2 : decode (bichroCfg 1) (.hostop 0b00010110#8 [.buf (.lit [0xA5#8]), .buf (.lit [0x18#8])]) = .ok (.draw2 (.lit [0xA5#8]) (.lit [0x18#8])) := by decide
theorem test_decode_pack_mono : decode exampleCfg (.hostop 0b00100000#8 [.pixels { rows := [], rest := some true }]) = .ok (.packMono { rows := [], rest := some true }) := by decide
theorem test_decode_get_pixel : decode exampleCfg (.hostop 0b00100001#8 [.buf (.ref 1), .int 9, .int 1]) = .ok (.getPixel (.ref 1) 9 1) := by decide
theorem test_decode_set_pixel : decode exampleCfg (.hostop 0b00100010#8 [.buf (.ref 1), .int (-1), .int 0, .bit true]) = .ok (.setPixel (.ref 1) (-1) 0 true) := by decide
theorem test_decode_pack_bichro : decode exampleCfg (.hostop 0b00100011#8 [.buf (.ref 1), .buf (.ref 2)]) = .ok (.packBichro (.ref 1) (.ref 2)) := by decide
theorem test_decode_power_setting : decode exampleCfg (.wirecmd 0b00000001#8 [0xA5#8]) = .ok (.powerSetting [0xA5#8]) := by decide
theorem test_decode_panel_setting : decode exampleCfg (.wirecmd 0b00000000#8 [0xA5#8]) = .ok (.panelSetting [0xA5#8]) := by decide
theorem test_decode_pll_control : decode exampleCfg (.wirecmd 0b00110000#8 [0xA5#8]) = .ok (.pllControl [0xA5#8]) := by decide
theorem test_decode_vcom_data_interval : decode exampleCfg (.wirecmd 0b01010000#8 [0xA5#8]) = .ok (.vcomDataInterval [0xA5#8]) := by decide
theorem test_decode_booster_soft_start : decode exampleCfg (.wirecmd 0b00000110#8 [0xA5#8]) = .ok (.boosterSoftStart [0xA5#8]) := by decide
theorem test_decode_tcon_resolution : decode exampleCfg (.wirecmd 0b01100001#8 [0xA5#8]) = .ok (.tconResolution [0xA5#8]) := by decide
theorem test_decode_data_start : decode exampleCfg (.wirecmd 0b00010000#8 [0xA5#8]) = .ok (.dataStart [0xA5#8]) := by decide
theorem test_decode_data_start_2 : decode exampleCfg (.wirecmd 0b00010011#8 [0xA5#8]) = .ok (.dataStart2 [0xA5#8]) := by decide
theorem test_decode_display_refresh : decode exampleCfg (.wirecmd 0b00010010#8 [0xA5#8]) = .ok (.displayRefresh [0xA5#8]) := by decide
theorem test_decode_power_off : decode exampleCfg (.wirecmd 0b00000010#8 [0xA5#8]) = .ok (.powerOff [0xA5#8]) := by decide
theorem test_decode_deep_sleep : decode exampleCfg (.wirecmd 0b00000111#8 [0xA5#8]) = .ok (.deepSleep [0xA5#8]) := by decide
theorem test_decode_get_status : decode exampleCfg (.wirecmd 0b01110001#8 [0xA5#8]) = .ok (.getStatus [0xA5#8]) := by decide
theorem test_decode_pixel_black : decode exampleCfg (.nibble 0b0000#4) = .ok (.pixelBlack) := by decide
theorem test_decode_pixel_white : decode exampleCfg (.nibble 0b0011#4) = .ok (.pixelWhite) := by decide
theorem test_decode_pixel_color : decode exampleCfg (.nibble 0b0100#4) = .ok (.pixelColor) := by decide
theorem test_decode_framebyte : decode exampleCfg (.framebyte 0b00110100#8) = .ok (.frameByte .white .color) := by decide
theorem test_decode_monobyte : decode exampleCfg (.monobyte 0b11010010#8) = .ok (.monoByte true true false true false false true false) := by decide
/-- R91: 0x17 stands between DRAW2 and PACK_MONO and is no selector. -/
theorem test_decode_no_selector : decode exampleCfg (.hostop 0x17#8 []) = .error (.unlistedSelector 0x17#8) := by decide
/-- The selector of INIT with an operand R81 does not list for it. -/
theorem test_decode_wrong_operands : decode exampleCfg (.hostop 0x11#8 [.int 0]) = .error (.wrongOperands 0x11#8) := by decide
/-- R86: an opcode of no row. -/
theorem test_decode_no_command : decode exampleCfg (.wirecmd 0xEE#8 []) = .error (.unlistedOpcode 0xEE#8) := by decide
/-- R90: the code 0x5. -/
theorem test_decode_unused_nibble : decode exampleCfg (.nibble 0x5#4) = .error (.unusedNibble 0x5#4) := by decide
/-- R90: a frame byte with bit 3 set. -/
theorem test_decode_unused_frame_byte : decode exampleCfg (.framebyte 0x38#8) = .error (.unusedFrameByte 0x38#8) := by decide
/-- opcode_table.json: the row of SLEEP, 8 bits. -/
theorem test_table_word_sleep : decodeTableWord 8 0x15 = some .sleep := by decide
/-- opcode_table.json: the row of PIXEL_COLOR, 4 bits. -/
theorem test_table_word_pixel_color : decodeTableWord 4 0x4 = some .pixelColor := by decide

/-! ### Steps: the vectors of 95_test_vectors.md section 2 -/

/-- V-T4's rule with CHUNK = 4: ten bytes are chunks of 4, 4, 2. -/
theorem test_transfer_chunks :
    ran (.transfer (.lit [1, 2, 3, 4, 5, 6, 7, 8, 9, 10])) (mk { exampleCfg with chunk := 4 } .unpowered (full 3) []) =
      some ([.csAssert, .wr [1, 2, 3, 4] (.count 4), .wr [5, 6, 7, 8] (.count 4), .wr [9, 10] (.count 2), .csDeassert],
        some (.ok .unit), .unpowered) := by decide
/-- V-T7. -/
theorem test_transfer_short_write :
    ran (.transfer (.lit [1, 2, 3, 4, 5, 6, 7, 8, 9, 10]))
        (mk { exampleCfg with chunk := 4 } .unpowered [.full, .count 2, .full] []) =
      some ([.csAssert, .wr [1, 2, 3, 4] (.count 4), .wr [5, 6, 7, 8] (.count 2)],
        some (.error (.transport 4 4 (.count 2))), .unpowered) := by decide
/-- V-SC2: a byte in no command table. -/
theorem test_send_command : ran (.sendCommand 0xEE#8) (mk exampleCfg .unpowered (full 1) []) =
    some ([.dc 0, .csAssert, .wr [0xEE#8] (.count 1), .csDeassert], some (.ok .unit), .unpowered) := by decide
/-- V-SD2. -/
theorem test_send_data_empty : ran (.sendData (.lit [])) (mk exampleCfg .ready [] []) =
    some ([.dc 1, .csAssert, .csDeassert], some (.ok .unit), .ready) := by decide
/-- V-SD3. -/
theorem test_send_data_elided : ran (.sendData (.lit [])) (mk { exampleCfg with elideEmptyData := true } .ready [] []) =
    some ([], some (.ok .unit), .ready) := by decide
/-- V-S1. -/
theorem test_send : ran (.send 0x01#8 (.lit [0x37#8, 0x00#8])) (mk exampleCfg .unpowered (full 2) []) =
    some ([.dc 0, .csAssert, .wr [0x01#8] (.count 1), .csDeassert, .dc 1, .csAssert, .wr [0x37#8, 0x00#8] (.count 2),
      .csDeassert], some (.ok .unit), .unpowered) := by decide
/-- V-S4, V-E4: the data frame is not attempted and ST is left alone. -/
theorem test_send_fails : ran (.send 0x01#8 (.lit [0x37#8])) (mk exampleCfg .ready [.fail] []) =
    some ([.dc 0, .csAssert, .wr [0x01#8] .fail], some (.error (.transport 0 1 .fail)), .ready) := by decide
/-- V-R3. -/
theorem test_reset_from_fault : ran .reset (mk exampleCfg .fault [] []) =
    some ([.rst 1, .dly 200, .rst 0, .dly 2, .rst 1, .dly 200], some (.ok .unit), .reset) := by decide
/-- V-W1 (S5). -/
theorem test_wait_idle_at_once : ran .waitUntilIdle (mk exampleCfg .unpowered (full 1) [1]) =
    some ([.dc 0, .csAssert, .wr [0x71#8] (.count 1), .csDeassert, .dc 1, .csAssert, .csDeassert, .dly 20, .busy 1, .dly 100],
      some (.ok .unit), .unpowered) := by decide
/-- V-W5. -/
theorem test_wait_times_out : ran .waitUntilIdle (mk { exampleCfg with pollBudget := some 1 } .ready (full 1) [0]) =
    some ([.dc 0, .csAssert, .wr [0x71#8] (.count 1), .csDeassert, .dc 1, .csAssert, .csDeassert, .dly 20, .busy 0],
      some (.error (.busyTimeout 1)), .ready) := by decide
/-- V-I4. -/
theorem test_init_fails_at_second_entry : ran .init (mk exampleCfg .reset [.full, .full, .fail] []) =
    some ([.dc 0, .csAssert, .wr [0x01#8] (.count 1), .csDeassert, .dc 1, .csAssert, .wr [0xA1#8, 0xA2#8] (.count 2),
      .csDeassert, .dc 0, .csAssert, .wr [0x00#8] .fail], some (.error (.transport 0 1 .fail)), .fault) := by decide
/-- V-I1 with a table of one entry (the example of R132). -/
theorem test_init : ran .init (mk { exampleCfg with initSeq := [(0x01#8, [0x37#8])] } .reset (full 3) [1]) =
    some ([.dc 0, .csAssert, .wr [0x01#8] (.count 1), .csDeassert, .dc 1, .csAssert, .wr [0x37#8] (.count 1), .csDeassert,
      .dc 0, .csAssert, .wr [0x71#8] (.count 1), .csDeassert, .dc 1, .csAssert, .csDeassert, .dly 20, .busy 1, .dly 100],
      some (.ok .unit), .ready) := by decide
/-- V-SL3: a deep-sleep payload, and no wait after it. -/
theorem test_sleep : ran .sleep (mk { exampleCfg with plDeepSleep := [0xA5#8] } .ready (full 4) [1]) =
    some ([.dc 0, .csAssert, .wr [0x02#8] (.count 1), .csDeassert, .dc 1, .csAssert, .csDeassert,
      .dc 0, .csAssert, .wr [0x71#8] (.count 1), .csDeassert, .dc 1, .csAssert, .csDeassert, .dly 20, .busy 1, .dly 100,
      .dc 0, .csAssert, .wr [0x07#8] (.count 1), .csDeassert, .dc 1, .csAssert, .wr [0xA5#8] (.count 1), .csDeassert],
      some (.ok .unit), .sleeping) := by decide
/-- V-SL2. -/
theorem test_sleep_while_sleeping : ran .sleep (mk exampleCfg .sleeping [] []) =
    some ([], some (.error (.invalidState .sleeping)), .sleeping) := by decide
/-- V-D8: no refresh command after a failed data frame. -/
theorem test_mono_draw_fails : ran (.monoDraw (.lit plane)) (mk exampleCfg .ready [.full, .count 2] []) =
    some ([.dc 0, .csAssert, .wr [0x10#8] (.count 1), .csDeassert, .dc 1, .csAssert, .wr plane (.count 2)],
      some (.error (.transport 0 4 (.count 2))), .fault) := by decide
/-- V-D6: the operand check comes first. -/
theorem test_mono_draw_short : ran (.monoDraw (.lit [0xFF#8, 0x00#8, 0x0F#8])) (mk exampleCfg .reset [] []) =
    some ([], some (.error (.invalidBufferSize 3 4)), .reset) := by decide
/-- V-CLR1: white through A and then through B. -/
theorem test_mono_clear : ran (.monoClear false) (mk exampleCfg .ready (full 6) [1]) =
    some ([.dc 0, .csAssert, .wr [0x10#8] (.count 1), .csDeassert,
      .dc 1, .csAssert, .wr [0xFF#8, 0xFF#8, 0xFF#8, 0xFF#8] (.count 4), .csDeassert,
      .dc 0, .csAssert, .wr [0x13#8] (.count 1), .csDeassert,
      .dc 1, .csAssert, .wr [0xFF#8, 0xFF#8, 0xFF#8, 0xFF#8] (.count 4), .csDeassert,
      .dc 0, .csAssert, .wr [0x12#8] (.count 1), .csDeassert, .dc 1, .csAssert, .csDeassert, .dly 100,
      .dc 0, .csAssert, .wr [0x71#8] (.count 1), .csDeassert, .dc 1, .csAssert, .csDeassert, .dly 20, .busy 1, .dly 100],
      some (.ok .unit), .ready) := by decide
/-- V-CLR5: the original's length, 32 bytes where DRAW sends 4; the first frames. -/
theorem test_bichro_clear :
    (ran (.bichroClear true) (mk { (bichroCfg 1) with bichroClearLen := 32 } .ready (full 4) [1])).map
        (fun r => (r.1.take 8, r.2)) =
      some ([.dc 0, .csAssert, .wr [0x10#8] (.count 1), .csDeassert, .dc 1, .csAssert,
        .wr (List.replicate 32 0x00#8) (.count 32), .csDeassert], some (.ok .unit), .ready) := by decide
/-- V-D2-3: the data frame. -/
theorem test_draw2 :
    (ran (.draw2 (.lit [0xA5#8, 0xF0#8]) (.lit [0x18#8, 0x81#8])) (mk (bichroCfg 2) .ready (full 4) [1])).map
        (fun r => ((r.1.drop 6).take 1, r.2)) =
      some ([.wr [0x30#8, 0x34#8, 0x43#8, 0x03#8, 0x43#8, 0x33#8, 0x00#8, 0x04#8] (.count 8)], some (.ok .unit), .ready) := by
  decide
/-- V-E1: the equal-length check comes before the state check. -/
theorem test_draw2_lengths : ran (.draw2 (.lit [1]) (.lit [1, 2])) (mk (bichroCfg 1) .sleeping [] []) =
    some ([], some (.error (.invalidBufferSize 1 2)), .sleeping) := by decide
/-- V-D2-4: the data frame. -/
theorem test_bichro_draw :
    (ran (.bichroDraw (.lit [0xF0#8])) (mk (bichroCfg 1) .ready (full 4) [1])).map (fun r => ((r.1.drop 6).take 1, r.2)) =
      some ([.wr [0x33#8, 0x33#8, 0x00#8, 0x00#8] (.count 4)], some (.ok .unit), .ready) := by decide
/-- The rows of V-PM2; beyond what is listed every pixel is white. -/
def pixelRows : List (List (Option Bool)) :=
  [(some true :: List.replicate 14 (some false)) ++ [some true],
   [some false, some true, some false, some true, some false, some true, some false, some true]]
/-- V-PM2. -/
theorem test_pack_mono :
    ran (.packMono { rows := pixelRows, rest := some true }) (mk exampleCfg .unpowered [] []) =
      some ([], some (.ok (.bytes [0x80#8, 0x01#8, 0x55#8, 0xFF#8])), .unpowered) := by decide
/-- V-PM7: a pixel function with no padding columns is refused. -/
theorem test_pack_mono_padding :
    ran (.packMono { rows := [List.replicate 10 (some true)], rest := none })
      (mk { exampleCfg with w := 10, h := 1 } .unpowered [] []) = none := by decide
/-- V-GP1, V-GP2. -/
theorem test_get_pixel :
    ran (.getPixel (.lit plane) 12 1) (mk exampleCfg .fault [] []) = some ([], some (.ok (.bit false)), .fault) ∧
    ran (.getPixel (.lit plane) 8 1) (mk exampleCfg .fault [] []) = some ([], some (.ok (.bit true)), .fault) := by decide
/-- V-GP3, V-GP5. -/
theorem test_get_pixel_errors :
    ran (.getPixel (.lit plane) 16 0) (mk exampleCfg .ready [] []) = some ([], some (.error (.outOfRange 16 0)), .ready) ∧
    ran (.getPixel (.lit [0, 0, 0]) 0 0) (mk exampleCfg .ready [] []) =
      some ([], some (.error (.invalidBufferSize 3 4)), .ready) := by decide
/-- V-SP1, on a host buffer. -/
theorem test_set_pixel :
    (nextState? (exec (.setPixel (.ref 3) 9 1 true) { mk exampleCfg .ready [] [] with bufs := [(3, [0, 0, 0, 0])] })).map
      (fun t => (t.bufs, t.returns)) = some ([(3, [0, 0, 0, 0x40#8])], [.ok .unit]) := by decide
/-- V-SP5 and V-SP6: beyond the right edge, and negative as well as too large. -/
theorem test_set_pixel_outside :
    ran (.setPixel (.lit [0, 0, 0, 0]) 16 0 true) (mk exampleCfg .ready [] []) =
      some ([], some (.error (.outOfRange 16 0)), .ready) ∧
    ran (.setPixel (.lit [0, 0, 0, 0]) (-1) 2 true) (mk exampleCfg .ready [] []) =
      some ([], some (.ok (.bytes [0, 0, 0, 0])), .ready) := by decide
/-- V-PB1. -/
theorem test_pack_bichro : ran (.packBichro (.lit [0xA5#8]) (.lit [0x18#8])) (mk exampleCfg .ready [] []) =
    some ([], some (.ok (.bytes [0x30#8, 0x34#8, 0x43#8, 0x03#8])), .ready) := by decide
/-- V-PB6: the other polarity of the black plane. -/
theorem test_pack_bichro_polarity :
    ran (.packBichro (.lit [0xA5#8]) (.lit [0x18#8])) (mk { exampleCfg with blackInkBit := true } .ready [] []) =
      some ([], some (.ok (.bytes [0x03#8, 0x04#8, 0x40#8, 0x30#8])), .ready) := by decide
/-- The pixel codes of R88. -/
theorem test_pixel_codes :
    ran .pixelBlack (mk exampleCfg .ready [] []) = some ([], some (.ok (.code 0x0#4)), .ready) ∧
    ran .pixelWhite (mk exampleCfg .ready [] []) = some ([], some (.ok (.code 0x3#4)), .ready) ∧
    ran .pixelColor (mk exampleCfg .ready [] []) = some ([], some (.ok (.code 0x4#4)), .ready) := by decide
/-- R89 and section 2.4: white left of colour. -/
theorem test_framebyte : ran (.frameByte .white .color) (mk exampleCfg .ready [] []) =
    some ([], some (.ok (.byte 0x34#8)), .ready) := by decide
/-- R190's example as one byte. -/
theorem test_monobyte : ran (.monoByte true true true true false false false false) (mk exampleCfg .ready [] []) =
    some ([], some (.ok (.byte 0xF0#8)), .ready) := by decide
theorem test_power_setting : (ran (.powerSetting [0xA5#8]) (mk exampleCfg .ready (full 2) [])).map (fun r => wireStream r.1) =
    some [{ dc := some 0, data := [0x01#8] }, { dc := some 1, data := [0xA5#8] }] := by decide
theorem test_panel_setting : (ran (.panelSetting [0xA5#8]) (mk exampleCfg .ready (full 2) [])).map (fun r => wireStream r.1) =
    some [{ dc := some 0, data := [0x00#8] }, { dc := some 1, data := [0xA5#8] }] := by decide
theorem test_pll_control : (ran (.pllControl [0xA5#8]) (mk exampleCfg .ready (full 2) [])).map (fun r => wireStream r.1) =
    some [{ dc := some 0, data := [0x30#8] }, { dc := some 1, data := [0xA5#8] }] := by decide
theorem test_vcom_data_interval : (ran (.vcomDataInterval [0xA5#8]) (mk exampleCfg .ready (full 2) [])).map (fun r => wireStream r.1) =
    some [{ dc := some 0, data := [0x50#8] }, { dc := some 1, data := [0xA5#8] }] := by decide
theorem test_booster_soft_start : (ran (.boosterSoftStart [0xA5#8]) (mk exampleCfg .ready (full 2) [])).map (fun r => wireStream r.1) =
    some [{ dc := some 0, data := [0x06#8] }, { dc := some 1, data := [0xA5#8] }] := by decide
theorem test_tcon_resolution : (ran (.tconResolution [0xA5#8]) (mk exampleCfg .ready (full 2) [])).map (fun r => wireStream r.1) =
    some [{ dc := some 0, data := [0x61#8] }, { dc := some 1, data := [0xA5#8] }] := by decide
theorem test_data_start : (ran (.dataStart [0xA5#8]) (mk exampleCfg .ready (full 2) [])).map (fun r => wireStream r.1) =
    some [{ dc := some 0, data := [0x10#8] }, { dc := some 1, data := [0xA5#8] }] := by decide
theorem test_data_start_2 : (ran (.dataStart2 [0xA5#8]) (mk exampleCfg .ready (full 2) [])).map (fun r => wireStream r.1) =
    some [{ dc := some 0, data := [0x13#8] }, { dc := some 1, data := [0xA5#8] }] := by decide
theorem test_display_refresh : (ran (.displayRefresh [0xA5#8]) (mk exampleCfg .ready (full 2) [])).map (fun r => wireStream r.1) =
    some [{ dc := some 0, data := [0x12#8] }, { dc := some 1, data := [0xA5#8] }] := by decide
theorem test_power_off : (ran (.powerOff [0xA5#8]) (mk exampleCfg .ready (full 2) [])).map (fun r => wireStream r.1) =
    some [{ dc := some 0, data := [0x02#8] }, { dc := some 1, data := [0xA5#8] }] := by decide
theorem test_deep_sleep : (ran (.deepSleep [0xA5#8]) (mk exampleCfg .ready (full 2) [])).map (fun r => wireStream r.1) =
    some [{ dc := some 0, data := [0x07#8] }, { dc := some 1, data := [0xA5#8] }] := by decide
theorem test_get_status : (ran (.getStatus [0xA5#8]) (mk exampleCfg .ready (full 2) [])).map (fun r => wireStream r.1) =
    some [{ dc := some 0, data := [0x71#8] }, { dc := some 1, data := [0xA5#8] }] := by decide

/-- P4: the wire stream of the two operations as that vector has it; the first frame goes out under an unspecified DC level. -/
theorem test_wire_stream_p4 :
    delimitedStream [.csAssert, .wr [1, 2, 3, 4] (.count 4), .wr [5, 6, 7, 8] (.count 2), .dc 0, .csAssert, .wr [0x12#8] (.count 1),
      .csDeassert] = [{ dc := none, data := [1, 2, 3, 4, 5, 6] }, { dc := some 0, data := [0x12#8] }] := by decide
/-- R8 to the letter on the same trace: the frame runs on to the next CS(deassert). -/
theorem test_wire_stream_r8 :
    wireStream [.csAssert, .wr [1, 2, 3, 4] (.count 4), .wr [5, 6, 7, 8] (.count 2), .dc 0, .csAssert, .wr [0x12#8] (.count 1),
      .csDeassert] = [{ dc := none, data := [1, 2, 3, 4, 5, 6, 0x12#8] }, { dc := some 0, data := [0x12#8] }] := by decide
/-- V-W2: a busy sample turns the poll loop; the operation has not returned. -/
theorem test_wait_goes_on :
    (nextState? (exec .waitUntilIdle (mk exampleCfg .ready (full 2) [0, 1]))).map (fun t => (t.returns, t.polls, t.seq != .idle)) =
      some ([], 1, true) := by decide
/-- From reset with a table word placed, the step runs it: RESET. -/
theorem test_fetch_word : step (State.reset.withFetchWord 8 0x10) = exec .reset State.reset := rfl

/-! ### Witnesses: for each obligation with hypotheses a state and operands that meet them all -/

/-- An idle controller in Ready with writes taken whole and the busy line idle. -/
def readyMono : State := mk exampleCfg .ready (full 40) [1]

/-- The same on the bichromatic variant, W = 8, H = 2. -/
def readyBichro : State := mk (bichroCfg 2) .ready (full 40) [1]

/-- A wait that stands at its poll loop after one busy sample. -/
def polling : State :=
  { mk exampleCfg .ready (full 40) [0, 1] with
    seq := .running .waitUntilIdle (pollLines exampleCfg ++ [.delay 100])
    polls := 1 }

/-- A DRAW that stands at its poll loop and whose next write fails. -/
def drawing : State :=
  { mk exampleCfg .ready [.fail] [] with
    seq := .running .draw (pollLines exampleCfg ++ [.delay 100])
    polls := 1 }

/-- A state whose host starts this encoded form next. -/
def starting (s : State) (w : Encoded) : State := { s with program := [w] }

/-- A state with two host buffers of PLANE_LEN bytes. -/
def withBuffers (s : State) : State := { s with bufs := [(1, plane), (2, plane)] }

theorem test_witness_step_runs_decoded_instruction :
    ((starting readyMono (.hostop 0x15#8 [])).seq = .idle ∧
      (starting readyMono (.hostop 0x15#8 [])).program = .hostop 0x15#8 [] :: [] ∧
      decode (starting readyMono (.hostop 0x15#8 [])).cfg (.hostop 0x15#8 []) = .ok .sleep) ∧
    ((starting readyMono (.nibble 0xF#4)).seq = .idle ∧
      (starting readyMono (.nibble 0xF#4)).program = .nibble 0xF#4 :: [] ∧
      decode (starting readyMono (.nibble 0xF#4)).cfg (.nibble 0xF#4) = .error (.unusedNibble 0xF#4)) ∧
    (readyMono.seq = .idle ∧ readyMono.program = []) ∧
    polling.seq = .running .waitUntilIdle (pollLines exampleCfg ++ [.delay 100]) := by decide

theorem test_witness_decode_of_encode :
    (exampleCfg.opcodesDistinct = true ∧ Instr.wf exampleCfg (.setPixel (.ref 0) (-1) 0 true) = true) ∧
    ((bichroCfg 1).opcodesDistinct = true ∧ Instr.wf (bichroCfg 1) (.draw2 (.lit [0xFF#8]) (.ref 1)) = true) := by decide

theorem test_witness_encode_of_decode :
    decode exampleCfg (.framebyte 0x44#8) = .ok (.frameByte .color .color) ∧
    decode exampleCfg (.wirecmd 0x71#8 [0x00#8]) = .ok (.getStatus [0x00#8]) := by decide

theorem test_witness_unlisted_encodings :
    readyMono.seq = .idle ∧
    (∀ b ∈ [0x00#8, 0x05#8, 0x0F#8, 0x17#8, 0x1F#8, 0x24#8, 0xFF#8],
      b ∉ [0x01#8, 0x02#8, 0x03#8, 0x04#8, 0x10#8, 0x11#8, 0x12#8, 0x13#8, 0x14#8, 0x15#8, 0x16#8, 0x20#8, 0x21#8, 0x22#8, 0x23#8] ∧
      (starting readyMono (.hostop b [])).program = .hostop b [] :: []) ∧
    (0xEE#8 ∉ readyMono.cfg.opcodes ∧ (starting readyMono (.wirecmd 0xEE#8 [])).program = .wirecmd 0xEE#8 [] :: []) ∧
    (∀ n ∈ [0x1#4, 0x2#4, 0x5#4, 0xF#4], n ∉ [0x0#4, 0x3#4, 0x4#4] ∧
      (starting readyMono (.nibble n)).program = .nibble n :: []) ∧
    (∀ b ∈ [0x01#8, 0x05#8, 0x35#8, 0x45#8, 0x80#8, 0x08#8],
      b ∉ [0x00#8, 0x03#8, 0x04#8, 0x30#8, 0x33#8, 0x34#8, 0x40#8, 0x43#8, 0x44#8] ∧
      (starting readyMono (.framebyte b)).program = .framebyte b :: []) := by decide

theorem test_witness_transfer_completes :
    readyMono.seq = .idle ∧ 0 < readyMono.cfg.chunk ∧
    readyMono.AllFull (writesOf readyMono.cfg.chunk (readyMono.bytesOf (.lit plane))) := by
  unfold State.AllFull; decide

theorem test_witness_send_command_completes : readyMono.seq = .idle ∧ 0 < readyMono.cfg.chunk ∧ readyMono.AllFull 1 := by
  unfold State.AllFull; decide

/-- One list with bytes and one that ELIDE_EMPTY_DATA leaves out. -/
theorem test_witness_send_data_completes :
    (readyMono.seq = .idle ∧ 0 < readyMono.cfg.chunk ∧
      readyMono.AllFull (writesOf readyMono.cfg.chunk (readyMono.bytesOf (.lit plane)))) ∧
    (let s := mk { exampleCfg with elideEmptyData := true } .ready [] [];
      s.seq = .idle ∧ 0 < s.cfg.chunk ∧ s.AllFull (writesOf s.cfg.chunk (s.bytesOf (.lit []))) ∧
      s.bytesOf (.lit []) = [] ∧ s.cfg.elideEmptyData = true) := by
  unfold State.AllFull; decide

theorem test_witness_send_completes :
    readyMono.seq = .idle ∧ 0 < readyMono.cfg.chunk ∧
    readyMono.AllFull (sendWrites readyMono.cfg (readyMono.bytesOf (.lit plane))) := by
  unfold State.AllFull; decide

theorem test_witness_send_wire_stream :
    readyMono.seq = .idle ∧ 0 < readyMono.cfg.chunk ∧
    readyMono.AllFull (sendWrites readyMono.cfg (readyMono.bytesOf (.lit []))) := by
  unfold State.AllFull; decide

theorem test_witness_wire_commands_complete :
    readyMono.seq = .idle ∧ 0 < readyMono.cfg.chunk ∧ readyMono.AllFull (sendWrites readyMono.cfg [0xA5#8]) := by
  unfold State.AllFull; decide

/-- V-T7, and the first write failing outright. -/
theorem test_witness_transfer_stops_at_short_write :
    (let s := mk { exampleCfg with chunk := 4 } .ready [.full, .count 2] [];
      let chunk := ((s.bytesOf (.lit [1, 2, 3, 4, 5, 6, 7, 8, 9, 10])).drop (1 * s.cfg.chunk)).take s.cfg.chunk;
      s.seq = .idle ∧ 0 < s.cfg.chunk ∧ 1 < writesOf s.cfg.chunk (s.bytesOf (.lit [1, 2, 3, 4, 5, 6, 7, 8, 9, 10])) ∧
      s.AllFull 1 ∧ answerOf (s.wrDrawAt 1) chunk.length = .count 2 ∧ 2 < chunk.length) ∧
    (let s := mk exampleCfg .ready [.fail] [];
      let chunk := ((s.bytesOf (.lit [0x5A#8])).drop (0 * s.cfg.chunk)).take s.cfg.chunk;
      s.seq = .idle ∧ 0 < s.cfg.chunk ∧ 0 < writesOf s.cfg.chunk (s.bytesOf (.lit [0x5A#8])) ∧ s.AllFull 0 ∧
      answerOf (s.wrDrawAt 0) chunk.length = .fail) := by
  unfold State.AllFull; decide

theorem test_witness_transport_frame :
    isTransportInstr (.sendData (.lit plane)) = true ∧ ∃ t, exec (.sendData (.lit plane)) readyMono = .next t :=
  ⟨rfl, _, rfl⟩

/-- Two states that differ in ST, the latches, the trace and the results. -/
theorem test_witness_transport_is_stateless :
    let s' : State := { readyMono with st := .fault, csL := 1, dcL := 1, trace := [.dc 0], returns := [.ok .unit] }
    isTransportInstr (.transfer (.lit plane)) = true ∧ s'.seq = .idle ∧ s'.cfg = readyMono.cfg ∧ s'.bufs = readyMono.bufs ∧
    (∀ j, s'.wrDrawAt j = readyMono.wrDrawAt j) ∧ ∃ t, exec (.transfer (.lit plane)) readyMono = .next t :=
  ⟨rfl, rfl, rfl, rfl, fun _ => rfl, _, rfl⟩

theorem test_witness_reset_completes : readyMono.seq = .idle := rfl

theorem test_witness_init_completes :
    let s := mk exampleCfg .reset (full 13) [1]
    s.seq = .idle ∧ 0 < s.cfg.chunk ∧ s.st = .reset ∧
    s.AllFull (tableWrites s.cfg s.cfg.initSeq + pollWrites s.cfg) ∧ s.IdleNext := by
  unfold State.AllFull State.IdleNext; decide

theorem test_witness_wait_completes :
    readyMono.seq = .idle ∧ 0 < readyMono.cfg.chunk ∧ readyMono.AllFull (pollWrites readyMono.cfg) ∧ readyMono.IdleNext := by
  unfold State.AllFull State.IdleNext; decide

theorem test_witness_sleep_completes :
    readyMono.seq = .idle ∧ 0 < readyMono.cfg.chunk ∧ readyMono.st = .ready ∧
    readyMono.AllFull (sendWrites readyMono.cfg readyMono.cfg.plPowerOff + pollWrites readyMono.cfg +
      sendWrites readyMono.cfg readyMono.cfg.plDeepSleep) ∧ readyMono.IdleNext := by
  unfold State.AllFull State.IdleNext; decide

/-- V-W7: idle at the last sample the budget allows. -/
theorem test_witness_wait_polls_until_idle :
    let s := mk { exampleCfg with pollBudget := some 2 } .ready (full 4) [0, 1]
    s.seq = .idle ∧ 0 < s.cfg.chunk ∧ s.AllFull ((1 + 1) * pollWrites s.cfg) ∧
    (∀ j, j < 1 → s.busyAt j ≠ s.cfg.busyIdleLevel) ∧ s.busyAt 1 = s.cfg.busyIdleLevel ∧
    (∀ b, s.cfg.pollBudget = some b → 1 < b) := by
  intro s
  unfold State.AllFull
  exact ⟨by decide, by decide, by decide, by decide, by decide, fun b h => by cases h; decide⟩

/-- V-W6. -/
theorem test_witness_wait_times_out :
    let s := mk { exampleCfg with pollBudget := some 2 } .ready (full 4) [0, 0]
    s.seq = .idle ∧ 0 < s.cfg.chunk ∧ s.cfg.pollBudget = some (1 + 1) ∧ s.AllFull ((1 + 1) * pollWrites s.cfg) ∧
    (∀ j, j < 1 + 1 → s.busyAt j ≠ s.cfg.busyIdleLevel) := by
  unfold State.AllFull; decide

/-- V-W8, its first three samples. -/
theorem test_witness_wait_hangs :
    let s := mk exampleCfg .ready (full 4) [0, 0, 0]
    s.seq = .idle ∧ 0 < s.cfg.chunk ∧ s.cfg.pollBudget = none ∧ s.AllFull ((2 + 1) * pollWrites s.cfg) ∧
    (∀ j, j < 2 + 1 → s.busyAt j ≠ s.cfg.busyIdleLevel) := by
  unfold State.AllFull; decide

/-- V-I2, V-CLR6, V-D5 and their like on the bichromatic variant. -/
theorem test_witness_admission :
    (let s := mk exampleCfg .unpowered [] [];
      s.seq = .idle ∧ s.st ≠ .reset ∧ s.st ≠ .ready ∧ s.cfg.variant = .mono ∧
      (s.bytesOf (.lit plane)).length = s.cfg.planeLen) ∧
    (let s := mk (bichroCfg 2) .sleeping [] [];
      s.seq = .idle ∧ s.st ≠ .reset ∧ s.st ≠ .ready ∧ s.cfg.variant = .bichro ∧
      (s.bytesOf (.lit [0, 0])).length = s.cfg.planeLen) := by decide

/-- V-D8 (at once), V-SL2 (before the bus) and a DRAW whose poll fails in a later step. -/
theorem test_witness_panel_failure :
    (let s := mk exampleCfg .ready [.full, .count 2] [];
      ∃ t, exec (.monoDraw (.lit plane)) s = .next t ∧ t.returns = s.returns ++ [.error (.transport 0 4 (.count 2))] ∧
        busPhase (.transport 0 4 (.count 2)) = true) ∧
    (let s := mk exampleCfg .sleeping [] [];
      ∃ t, exec .sleep s = .next t ∧ t.returns = s.returns ++ [.error (.invalidState .sleeping)] ∧
        busPhase (.invalidState .sleeping) = false) ∧
    (drawing.seq = .running .draw (pollLines exampleCfg ++ [.delay 100]) ∧ isPanelOp .draw = true ∧
      ∃ t, step drawing = .next t ∧ t.returns = drawing.returns ++ [.error (.transport 0 1 .fail)]) :=
  ⟨⟨_, rfl, by decide, rfl⟩, ⟨_, rfl, by decide, rfl⟩, rfl, rfl, _, rfl, by decide⟩

theorem test_witness_only_reset_leaves :
    (let s := starting (mk exampleCfg .sleeping [] []) (.hostop 0x10#8 []);
      SeqInv s ∧ (s.st = .sleeping ∨ s.st = .fault) ∧ ∃ t, step s = .next t ∧ t.st ≠ s.st) ∧
    (let s := starting (mk exampleCfg .fault [] []) (.hostop 0x10#8 []);
      SeqInv s ∧ (s.st = .sleeping ∨ s.st = .fault) ∧ ∃ t, step s = .next t ∧ t.st ≠ s.st) :=
  ⟨⟨(by decide : St.sleeping ≠ .initializing), .inl rfl, _, rfl, by decide⟩,
    (by decide : St.fault ≠ .initializing), .inr rfl, _, rfl, by decide⟩

theorem test_witness_only_reset_drives :
    let s := starting (mk exampleCfg .ready [] []) (.hostop 0x10#8 [])
    SeqInv s ∧ ∃ t, step s = .next t ∧ t.rstL ≠ s.rstL :=
  ⟨(by decide : St.ready ≠ .initializing), _, rfl, by decide⟩

theorem test_witness_panel_frame :
    (isPanelInstr (.monoClear true) = true ∧ ∃ t, exec (.monoClear true) readyMono = .next t) ∧
    ∃ t, exec .waitUntilIdle readyMono = .next t :=
  ⟨⟨rfl, _, rfl⟩, _, rfl⟩

theorem test_witness_mono_draw_completes :
    readyMono.seq = .idle ∧ 0 < readyMono.cfg.chunk ∧ readyMono.cfg.variant = .mono ∧ readyMono.st = .ready ∧
    (readyMono.bytesOf (.lit plane)).length = readyMono.cfg.planeLen ∧
    readyMono.AllFull (sendWrites readyMono.cfg (readyMono.bytesOf (.lit plane)) + refreshWrites readyMono.cfg) ∧
    readyMono.IdleNext := by
  unfold State.AllFull State.IdleNext; decide

theorem test_witness_draw_two_planes_completes :
    readyBichro.seq = .idle ∧ 0 < readyBichro.cfg.chunk ∧ readyBichro.cfg.variant = .bichro ∧ readyBichro.st = .ready ∧
    (readyBichro.bytesOf (.lit [0xA5#8, 0xF0#8])).length = readyBichro.cfg.planeLen ∧
    (readyBichro.bytesOf (.lit [0x18#8, 0x81#8])).length = readyBichro.cfg.planeLen ∧
    readyBichro.AllFull (sendWrites readyBichro.cfg (packBichro readyBichro.cfg (readyBichro.bytesOf (.lit [0xA5#8, 0xF0#8]))
      (readyBichro.bytesOf (.lit [0x18#8, 0x81#8]))) + refreshWrites readyBichro.cfg) ∧ readyBichro.IdleNext := by
  unfold State.AllFull State.IdleNext; decide

theorem test_witness_bichro_draw_completes :
    readyBichro.seq = .idle ∧ 0 < readyBichro.cfg.chunk ∧ readyBichro.cfg.variant = .bichro ∧ readyBichro.st = .ready ∧
    (readyBichro.bytesOf (.lit [0xA5#8, 0xF0#8])).length = readyBichro.cfg.planeLen ∧
    readyBichro.AllFull (sendWrites readyBichro.cfg (packBichro readyBichro.cfg (readyBichro.bytesOf (.lit [0xA5#8, 0xF0#8]))
      (List.replicate readyBichro.cfg.planeLen 0x00#8)) + refreshWrites readyBichro.cfg) ∧ readyBichro.IdleNext := by
  unfold State.AllFull State.IdleNext; decide

theorem test_witness_mono_clear_completes :
    readyMono.seq = .idle ∧ 0 < readyMono.cfg.chunk ∧ readyMono.cfg.variant = .mono ∧ readyMono.st = .ready ∧
    readyMono.AllFull (tableWrites readyMono.cfg (planTable readyMono.cfg.monoClearWhite readyMono.cfg.planeLen) +
      refreshWrites readyMono.cfg) ∧ readyMono.IdleNext := by
  unfold State.AllFull State.IdleNext; decide

theorem test_witness_bichro_clear_completes :
    readyBichro.seq = .idle ∧ 0 < readyBichro.cfg.chunk ∧ readyBichro.cfg.variant = .bichro ∧ readyBichro.st = .ready ∧
    readyBichro.AllFull (sendWrites readyBichro.cfg (List.replicate readyBichro.cfg.bichroClearLen 0x33#8) +
      refreshWrites readyBichro.cfg) ∧ readyBichro.IdleNext := by
  unfold State.AllFull State.IdleNext; decide

/-- Each clause one byte short or one byte long. -/
theorem test_witness_size_errors :
    (readyMono.seq = .idle ∧ readyMono.cfg.variant = .mono ∧
      (readyMono.bytesOf (.lit [0, 0, 0])).length ≠ readyMono.cfg.planeLen ∧
      (readyMono.bytesOf (.lit [0, 0, 0, 0, 0])).length ≠ readyMono.cfg.planeLen) ∧
    (readyBichro.seq = .idle ∧ readyBichro.cfg.variant = .bichro ∧
      (readyBichro.bytesOf (.lit [0])).length ≠ readyBichro.cfg.planeLen ∧
      (readyBichro.bytesOf (.lit [0, 0])).length ≠ (readyBichro.bytesOf (.lit [0])).length ∧
      (readyBichro.bytesOf (.lit [0])).length = (readyBichro.bytesOf (.lit [1])).length) := by decide

/-- For every `n` there is a state of the shape the statement wants, on either variant. -/
theorem test_witness_clear_buffers_differ (n : Nat) :
    (exampleCfg.wf = true ∧ (let s := mk exampleCfg .ready (full n) [1];
      s.cfg = exampleCfg ∧ s.seq = .idle ∧ s.st = .ready ∧ s.AllFull n ∧ s.IdleNext)) ∧
    ((bichroCfg 2).wf = true ∧ (let s := mk (bichroCfg 2) .ready (full n) [1];
      s.cfg = bichroCfg 2 ∧ s.seq = .idle ∧ s.st = .ready ∧ s.AllFull n ∧ s.IdleNext)) := by
  have hf : ∀ (c : Cfg), (mk c .ready (full n) [1]).AllFull n := by
    intro c j hj
    simp [State.wrDrawAt, mk, full, hj]
  exact ⟨⟨by decide, rfl, rfl, rfl, hf _, rfl⟩, by decide, rfl, rfl, rfl, hf _, rfl⟩

theorem test_witness_init_sends_its_table :
    let s := mk exampleCfg .reset (full 13) [1]
    s.seq = .idle ∧ 0 < s.cfg.chunk ∧ s.st = .reset ∧ s.cfg.opcodesDistinct = true ∧
    s.AllFull (tableWrites s.cfg s.cfg.initSeq + pollWrites s.cfg) ∧ s.IdleNext ∧
    s.cfg.initSeq.map (fun e => decodeCommand s.cfg e.1 e.2) =
      [Instr.powerSetting [0xA1#8, 0xA2#8], .panelSetting [0xB1#8], .pllControl [0xC1#8], .vcomDataInterval [0xD1#8],
        .boosterSoftStart [0xE1#8, 0xE2#8, 0xE3#8], .tconResolution [0xF1#8, 0xF2#8, 0xF3#8, 0xF4#8]].map some := by
  unfold State.AllFull State.IdleNext; decide

/-- INIT and a draw on a well-formed CFG, and the wait of a DRAW that goes on. -/
theorem test_witness_image_commands_stay_out :
    (let s := mk exampleCfg .reset (full 13) [1];
      s.cfg.wf = true ∧ ∃ t es, exec .init s = .next t ∧ t.trace = s.trace ++ es) ∧
    (readyBichro.cfg.wf = true ∧ isPanelInstr (.bichroClear true) = true ∧ (∀ black, Instr.bichroClear true ≠ .monoClear black) ∧
      ∃ t es, exec (.bichroClear true) readyBichro = .next t ∧ t.trace = readyBichro.trace ++ es) ∧
    (drawing.cfg.wf = true ∧ SeqInv drawing ∧ drawing.seq ≠ .idle ∧
      ∃ t es, step drawing = .next t ∧ t.trace = drawing.trace ++ es) :=
  ⟨⟨by decide, _, _, rfl, rfl⟩, ⟨by decide, rfl, nofun, _, _, rfl, rfl⟩, by decide, ⟨rfl, _, rfl, rfl⟩,
    by decide, _, _, rfl, rfl⟩

/-- One state for each protocol state and variant; 40 writes are enough for every clause. -/
theorem test_witness_delay_sums :
    (let s := readyMono;
      s.seq = .idle ∧ 0 < s.cfg.chunk ∧ s.IdleNext ∧ s.st = .ready ∧ s.cfg.variant = .mono ∧
      (s.bytesOf (.lit plane)).length = s.cfg.planeLen ∧ s.AllFull 40 ∧
      writesOf s.cfg.chunk (s.bytesOf (.lit plane)) ≤ 40 ∧
      sendWrites s.cfg (s.bytesOf (.lit plane)) + refreshWrites s.cfg ≤ 40 ∧
      tableWrites s.cfg (planTable (s.cfg.monoClearSeq false) s.cfg.planeLen) + refreshWrites s.cfg ≤ 40 ∧
      sendWrites s.cfg s.cfg.plPowerOff + pollWrites s.cfg + sendWrites s.cfg s.cfg.plDeepSleep ≤ 40) ∧
    (let s := readyBichro;
      s.seq = .idle ∧ 0 < s.cfg.chunk ∧ s.IdleNext ∧ s.st = .ready ∧ s.cfg.variant = .bichro ∧
      (s.bytesOf (.lit [0xA5#8, 0xF0#8])).length = s.cfg.planeLen ∧ s.AllFull 40 ∧
      sendWrites s.cfg (packBichro s.cfg (s.bytesOf (.lit [0xA5#8, 0xF0#8])) s.cfg.zeroPlane) + refreshWrites s.cfg ≤ 40 ∧
      sendWrites s.cfg (List.replicate s.cfg.bichroClearLen (bichroFill false)) + refreshWrites s.cfg ≤ 40) ∧
    (let s := mk exampleCfg .reset (full 13) [1];
      s.seq = .idle ∧ 0 < s.cfg.chunk ∧ s.IdleNext ∧ s.st = .reset ∧
      s.AllFull (tableWrites s.cfg s.cfg.initSeq + pollWrites s.cfg)) := by
  unfold State.AllFull State.IdleNext; decide

/-- W = 10: the padding columns 10 to 15 are defined. -/
theorem test_witness_pack_mono_completes :
    let s := mk { exampleCfg with w := 10 } .ready [] []
    s.seq = .idle ∧ ∀ x y, x < 8 * s.cfg.stride → y < s.cfg.h →
      ∃ v, PixelMap.at? { rows := [], rest := some true } x y = some v :=
  ⟨rfl, fun _ _ _ _ => ⟨true, by simp [PixelMap.at?]⟩⟩

/-- The last padding column of the last row. -/
theorem test_witness_get_pixel_completes :
    let s := mk { exampleCfg with w := 10 } .ready [] []
    s.seq = .idle ∧ (s.bytesOf (.lit plane)).length = s.cfg.planeLen ∧ 15 < 8 * s.cfg.stride ∧ 1 < s.cfg.h := by decide

/-- The last pixel, on a list and on a host buffer. -/
theorem test_witness_set_pixel_completes :
    let s := withBuffers readyMono
    s.seq = .idle ∧ s.cfg.w % 8 = 0 ∧ 15 < s.cfg.w ∧ 1 < s.cfg.h ∧
    (s.bytesOf (.lit plane)).length = s.cfg.w * s.cfg.h / 8 ∧ (s.bytesOf (.ref 2)).length = s.cfg.w * s.cfg.h / 8 := by decide

theorem test_witness_pack_bichro_completes :
    readyMono.seq = .idle ∧ (readyMono.bytesOf (.lit plane)).length = (readyMono.bytesOf (.lit [0, 0, 0, 0])).length ∧
    (readyMono.bytesOf (.lit [])).length = (readyMono.bytesOf (.ref 9)).length := by decide

/-- Each edge by one, and a negative coordinate with one that is too large (V-GP3, V-GP4, V-SP4 to V-SP6). -/
theorem test_witness_pixel_coordinates_outside :
    readyMono.seq = .idle ∧ (readyMono.bytesOf (.lit plane)).length = readyMono.cfg.planeLen ∧
    readyMono.cfg.w % 8 = 0 ∧
    (∀ p ∈ [((-1 : Int), (0 : Int)), (0, -1), (16, 0), (0, 2), (-1, 2)],
      p.1 < 0 ∨ p.2 < 0 ∨ 8 * (readyMono.cfg.stride : Int) ≤ p.1 ∨ (readyMono.cfg.h : Int) ≤ p.2) ∧
    (∀ p ∈ [((-1 : Int), (0 : Int)), (0, -5), (-1, 2)], p.1 < 0 ∨ p.2 < 0) ∧
    (∀ p ∈ [((16 : Int), (0 : Int)), (0, 2)],
      0 ≤ p.1 ∧ 0 ≤ p.2 ∧ ((readyMono.cfg.w : Int) ≤ p.1 ∨ (readyMono.cfg.h : Int) ≤ p.2)) := by decide

theorem test_witness_pixel_encodings : readyMono.seq = .idle := rfl

theorem test_witness_pack_unpack : 15 < 8 * exampleCfg.stride ∧ 1 < exampleCfg.h := by decide

theorem test_witness_zero_colour_plane :
    (∀ x ∈ [0x00#8, 0x00#8], x = 0x00#8) ∧ 0x30#8 ∈ packBichro exampleCfg [0xA5#8, 0xF0#8] [0x00#8, 0x00#8] := by decide

theorem test_witness_pure_operations :
    let s := withBuffers readyMono
    let s' : State := { s with st := .fault, dcL := 1, trace := [.dc 1], returns := [.ok .unit], wrQueue := [] }
    isPureInstr (.setPixel (.ref 1) 9 1 false) = true ∧ BuffersInv s ∧
    (∃ t, exec (.setPixel (.ref 1) 9 1 false) s = .next t) ∧ s'.seq = .idle ∧ s'.cfg = s.cfg ∧ s'.bufs = s.bufs :=
  ⟨rfl, by unfold BuffersInv; decide, ⟨_, rfl⟩, rfl, rfl, rfl⟩

/-- Each clause once; the Surface is one byte short of its last byte. -/
theorem test_witness_refused_starts :
    polling.seq ≠ .idle ∧ (readyMono.seq = .idle ∧ readyMono.cfg.variant = .mono) ∧
    (readyBichro.seq = .idle ∧ readyBichro.cfg.variant = .bichro) ∧
    (let s := mk { exampleCfg with w := 10, h := 1 } .ready [] [];
      s.seq = .idle ∧ 10 < 8 * s.cfg.stride ∧ 0 < s.cfg.h ∧
      PixelMap.at? { rows := [List.replicate 10 (some true)], rest := none } 10 0 = none ∧ s.cfg.w % 8 ≠ 0) ∧
    (readyMono.cfg.w % 8 = 0 ∧ (0 : Int) ≤ 8 ∧ (0 : Int) ≤ 1 ∧ (8 : Int) < readyMono.cfg.w ∧ (1 : Int) < readyMono.cfg.h ∧
      (readyMono.bytesOf (.lit [0, 0, 0])).length ≤ readyMono.cfg.surfaceIndex (8 : Int).toNat (1 : Int).toNat) ∧
    (let s := mk { exampleCfg with chunk := 0 } .ready [] [];
      s.seq = .idle ∧ s.cfg.chunk = 0) := by decide

theorem test_witness_polling_invariants :
    SeqInv polling ∧ FramingInv polling ∧ PollsInv polling ∧ BuffersInv polling ∧ 0 < polling.cfg.chunk ∧
    ∃ t, step polling = .next t :=
  ⟨⟨(by decide : St.ready ≠ .initializing), _, rfl, rfl⟩, (by decide : framingOf 128 [] = .outside),
    (by decide : 1 ≤ 1 ∧ budgetSpent exampleCfg 1 = false), by unfold BuffersInv; decide, by decide, _, rfl⟩

/-- A state whose trace has driven each line once. -/
theorem test_witness_latches :
    let s : State := { readyMono with rstL := 1, dcL := 0, csL := 1, trace := [.rst 1, .dc 0, .csAssert, .csDeassert] }
    LatchesHoldTrace s ∧ lastRst s.trace = some 1 ∧ lastDc s.trace = some 0 ∧ knownCs s.cfg none s.trace = some 1 ∧
    ∃ t, step (starting s (.hostop 0x10#8 [])) = .next t :=
  ⟨⟨fun l h => by cases h; rfl, fun l h => by cases h; rfl, fun l h => by cases h; decide⟩, by decide, by decide, by decide,
    _, rfl⟩

theorem test_witness_history : ∃ t, step (starting readyMono (.hostop 0x15#8 [])) = .next t := ⟨_, rfl⟩

theorem test_witness_lines_one_by_one : polling.seq = .running .waitUntilIdle (pollLines exampleCfg ++ [.delay 100]) := rfl

/-- A start that returns an error and one that does not; a turn of a wait that fails with a program waiting (V-D8's like) and
one that ends in Ok. -/
theorem test_witness_host_stops :
    (let s := starting (mk exampleCfg .sleeping [] []) (.hostop 0x15#8 []);
      s.seq = .idle ∧ s.program = .hostop 0x15#8 [] :: [] ∧
      ∃ t, step s = .next t ∧ t.returns = s.returns ++ [.error (.invalidState .sleeping)]) ∧
    (let s := starting readyMono (.hostop 0x10#8 []);
      s.seq = .idle ∧ s.program = .hostop 0x10#8 [] :: [] ∧ ∃ t, step s = .next t ∧ t.returns = s.returns ++ [.ok .unit]) ∧
    (let s := starting drawing (.hostop 0x10#8 []);
      s.seq = .running .draw (pollLines exampleCfg ++ [.delay 100]) ∧ s.program = [.hostop 0x10#8 []] ∧
      ∃ t, step s = .next t ∧ t.returns = s.returns ++ [.error (.transport 0 1 .fail)]) ∧
    (let s := { starting polling (.hostop 0x10#8 []) with busyQueue := [1] };
      s.seq = .running .waitUntilIdle (pollLines exampleCfg ++ [.delay 100]) ∧ s.program = [.hostop 0x10#8 []] ∧
      ∃ t, step s = .next t ∧ t.returns = s.returns ++ [.ok .unit]) :=
  ⟨⟨rfl, rfl, _, rfl, by decide⟩, ⟨rfl, rfl, _, rfl, by decide⟩, ⟨rfl, rfl, _, rfl, by decide⟩, rfl, rfl, _, rfl, by decide⟩

/-- The last pixel of host buffer 2; another buffer and another byte stand beside it. -/
theorem test_witness_set_pixel_memory_frame :
    let s := withBuffers readyMono
    BuffersInv s ∧ (∃ t, exec (.setPixel (.ref 2) 15 1 true) s = .next t) ∧
    (15 : Int) < s.cfg.w ∧ (1 : Int) < s.cfg.h ∧
    s.bufferByte? 2 (s.cfg.surfaceIndex (15 : Int).toNat (1 : Int).toNat) = some 0xF0#8 ∧
    s.bufferByte? 1 0 = some 0xFF#8 :=
  ⟨by unfold BuffersInv; decide, ⟨_, rfl⟩, by decide, by decide, by decide, by decide⟩

end Sys2Proof.Tests
end

section
/-! The wire stream of one wire command, read in front of any further events, and the state SEND leaves where every write
is taken whole (R8, R83 to R85, R113). -/

namespace Sys2Proof.Machine

/-- The empty payload under `ELIDE_EMPTY_DATA` is the one that is left out (R84). -/
theorem elided_iff {c : Cfg} {bytes : List Byte} : elided c bytes = true ↔ bytes = [] ∧ c.elideEmptyData = true := by
  simp [elided]

/-- Cutting a list into chunks loses and reorders nothing (R58, R110). -/
theorem chunksOf_flatten (n : Nat) (hn : 0 < n) (bytes : List Byte) : (chunksOf n bytes).flatten = bytes := by
  by_cases hne : bytes = []
  · simp [hne, chunksOf_nil n hn]
  · have hdec : (bytes.drop n).length < bytes.length := by
      have := List.length_pos_iff.mpr hne
      rw [List.length_drop]
      omega
    rw [chunksOf_cons n hn bytes hne, List.flatten_cons, chunksOf_flatten n hn (bytes.drop n), List.take_append_drop]
termination_by bytes.length

/-- Writes taken whole put their bytes, in order, into the open frame (R8). -/
theorem frameData_writes (chunks : List (List Byte)) (es : List Event) :
    frameData (chunks.map (fun k => .wr k (.count k.length)) ++ es) = chunks.flatten ++ frameData es := by
  induction chunks with
  | nil => rfl
  | cons k ks ih => simp [frameData, sentBytes, ih]

/-- Writes open no frame and drive no DC level (R8). -/
theorem framesAt_writes (dc : Option Level) (chunks : List (List Byte)) (es : List Event) :
    framesAt dc (chunks.map (fun k => .wr k (.count k.length)) ++ es) = framesAt dc es := by
  induction chunks with
  | nil => rfl
  | cons k ks ih => exact ih

/-- A transfer is one frame with all its bytes, whatever `CHUNK` is (R8, R110). -/
theorem framesAt_transferTrace (c : Cfg) (hc : 0 < c.chunk) (dc : Option Level) (bytes : List Byte) (es : List Event) :
    framesAt dc (transferTrace c bytes ++ es) = { dc := dc, data := bytes } :: framesAt dc es := by
  simp [transferTrace, framesAt, framesAt_writes, frameData, frameData_writes, chunksOf_flatten c.chunk hc]

/-- `CMD(b)` is one frame under DC low, and leaves DC low (R83). -/
theorem framesAt_commandTrace (dc : Option Level) (b : Byte) (es : List Event) :
    framesAt dc (commandTrace b ++ es) = { dc := some 0#1, data := [b] } :: framesAt (some 0#1) es := rfl

/-- `DAT(l)` is one frame under DC high, which it leaves high, or nothing where it is left out (R84). -/
theorem framesAt_dataTrace (c : Cfg) (hc : 0 < c.chunk) (dc : Option Level) (bytes : List Byte) (es : List Event) :
    framesAt dc (dataTrace c bytes ++ es) =
      if elided c bytes then framesAt dc es else { dc := some 1#1, data := bytes } :: framesAt (some 1#1) es := by
  by_cases he : elided c bytes = true
  · simp [dataTrace, he]
  · simp [dataTrace, he, framesAt, framesAt_transferTrace c hc]

/-- A wire command is its command frame and its data frame; what follows is read under the DC level it leaves (R85). -/
theorem framesAt_sendTrace (c : Cfg) (hc : 0 < c.chunk) (dc : Option Level) (opcode : Byte) (payload : List Byte)
    (es : List Event) :
    framesAt dc (sendTrace c opcode payload ++ es) =
      { dc := some 0#1, data := [opcode] } ::
        ((if elided c payload then [] else [{ dc := some 1#1, data := payload }]) ++
          framesAt (some (dcAfterSend c payload)) es) := by
  rw [sendTrace, List.append_assoc, framesAt_commandTrace, framesAt_dataTrace c hc]
  by_cases he : elided c payload = true <;> simp [he, dcAfterSend]

/-- The bus phase of SEND, and of a wire command the host starts, where every write is taken whole (R113, R85). -/
theorem State.launch_send (s : State) (opcode : Byte) (payload : List Byte) (hc : 0 < s.cfg.chunk)
    (hf : s.AllFull (sendWrites s.cfg payload)) :
    s.launch .send (sendLines s.cfg opcode payload) =
      .next ((s.sentOn (sendTrace s.cfg opcode payload) (sendWrites s.cfg payload) 0 payload).returnedOk .unit) := by
  have hrun := advance_send .send s.cfg opcode payload [] s rfl hc hf
  rw [List.append_nil] at hrun
  rw [State.launch_of hc, hrun]
  rfl

/-- SEND started while SEQ is idle is its bus phase (R113, R264). -/
theorem exec_send_of_idle (s : State) (opcode : Byte) (b : Buf) (hs : s.seq = .idle) :
    exec (.send opcode b) s = s.launch .send (sendLines s.cfg opcode (s.bytesOf b)) :=
  State.whenIdle_of hs

/-- Settles O14: SEND appends `sendTrace`, which read as a wire stream is the command frame and the data frame, since the
chunks of the payload put together are the payload. -/
theorem sendWireStream : Obligations.SendWireStream := by
  intro s opcode b hs hc hf
  refine ⟨_, sendTrace s.cfg opcode (s.bytesOf b), (exec_send_of_idle s opcode b hs).trans
    (s.launch_send opcode (s.bytesOf b) hc hf), rfl, ?_⟩
  have hframes := framesAt_sendTrace s.cfg hc none opcode (s.bytesOf b) []
  simpa [wireStream, framesAt, elided_iff] using hframes

end Sys2Proof.Machine
end

section
/-! What starting an instruction can answer, tied to the instruction: which operation it runs as, on which lines, and what
its checks say of `ST` (R110 to R113, R130 to R137, R161 to R165). -/

namespace Sys2Proof.Machine

/-- The bus phase of an instruction that has passed its checks in `s`: the operation it runs as and its lines. A wire command
runs as a raw SEND (R85); DRAW, DRAW2 and CLEAR of either variant differ in the bytes they send alone (R135, R136). -/
inductive Runs (s : State) : Instr → OpName → List Line → Prop
  | transfer (b : Buf) : Runs s (.transfer b) .transfer (transferLines s.cfg (s.bytesOf b))
  | sendCommand (opcode : Byte) : Runs s (.sendCommand opcode) .sendCommand (sendCommandLines s.cfg opcode)
  | sendData (b : Buf) : Runs s (.sendData b) .sendData (sendDataLines s.cfg (s.bytesOf b))
  | send {i : Instr} (hi : isTransportInstr i = true) (hne : ∀ b, i ≠ .transfer b) (opcode : Byte) (payload : List Byte) :
    Runs s i .send (sendLines s.cfg opcode payload)
  | reset : Runs s .reset .reset resetLines
  | init (hst : s.st = .reset) : Runs s .init .init (initLines s.cfg)
  | waitUntilIdle : Runs s .waitUntilIdle .waitUntilIdle (waitLines s.cfg)
  | sleep (hst : s.st = .ready) : Runs s .sleep .sleep (sleepLines s.cfg)
  | draw {i : Instr} {op : OpName} (hi : isPanelInstr i = true) (hne : i ≠ .init ∧ i ≠ .sleep) (hop : op = .draw ∨ op = .draw2)
    (hst : s.st = .ready) (bytes : List Byte) : Runs s i op (drawLines s.cfg bytes)
  | clear {i : Instr} (hi : isPanelInstr i = true) (hne : i ≠ .init ∧ i ≠ .sleep) (hst : s.st = .ready)
    (plan : List (Byte × Byte)) (n : Nat) : Runs s i .clear (clearLines s.cfg plan n)

/-- `Started`, with the bus phase that was run tied to the instruction, and a buffer stored by a pure operation only. -/
inductive StartedAs (i : Instr) (s t : State) : Prop
  | gave (v : Value) (h : t = s.finish (.ok v))
  | stored (hi : isPureInstr i = true) (b : Buf) (bytes : List Byte) (v : Value) (h : t = (s.putBytes b bytes).finish (.ok v))
  | raised (op : OpName) (e : Err) (hb : busPhase e = false) (h : t = s.raiseIn op e)
  | ran (op : OpName) (ls : List Line) (hr : Runs s i op ls) (h : t = advance op ls s)

/-- Whatever next state an outcome holds is one that starting `i` in `s` may answer. -/
def Answers (i : Instr) (s : State) (o : Out) : Prop := ∀ t, o = .next t → StartedAs i s t

section
variable {i : Instr} {s : State} {k : Out} {op : OpName}

theorem Answers.refused {r : Refusal} : Answers i s (.refused r) := fun _ h => nomatch h

theorem Answers.give {v : Value} : Answers i s (s.give v) := by
  rintro t ⟨⟩
  exact .gave v rfl

theorem Answers.raise {e : Err} (hb : busPhase e = false) : Answers i s (.next (s.raiseIn op e)) := by
  rintro t ⟨⟩
  exact .raised op e hb rfl

theorem Answers.advance {ls : List Line} (hr : Runs s i op ls) : Answers i s (.next (advance op ls s)) := by
  rintro t ⟨⟩
  exact .ran op ls hr rfl

theorem Answers.launch {ls : List Line} (hr : Runs s i op ls) : Answers i s (s.launch op ls) := by
  unfold State.launch
  split
  · exact .refused
  · exact .advance hr

theorem Answers.whenIdle (h : Answers i s k) : Answers i s (s.whenIdle k) := by
  unfold State.whenIdle
  split
  · exact h
  · exact .refused

theorem Answers.admitted {need : St} (h : s.st = need → Answers i s k) : Answers i s (s.admitted op need k) := by
  unfold State.admitted
  split
  · exact h ‹_›
  · exact .raise rfl

theorem Answers.checkLen {got wanted : Nat} (h : Answers i s k) : Answers i s (s.checkLen op got wanted k) := by
  unfold State.checkLen
  split
  · exact h
  · exact .raise rfl

theorem Answers.onVariant {v : Variant} (h : Answers i s k) : Answers i s (s.onVariant v k) := by
  unfold State.onVariant
  split
  · exact h
  · exact .refused

theorem Answers.putSurfacePixel (hi : isPureInstr i = true) {b : Buf} {bytes : List Byte} {n x : Nat} {v : Bool} :
    Answers i s (putSurfacePixel b bytes n x v s) := by
  unfold Machine.putSurfacePixel
  split
  · exact .refused
  · rintro t ⟨⟩
    exact .stored hi _ _ _ rfl

/-- A DRAW or DRAW2 row past its variant check and the checks of its operands (R135, R161, R163). -/
theorem Answers.panelDraw (hi : isPanelInstr i = true) (hne : i ≠ .init ∧ i ≠ .sleep) (hop : op = .draw ∨ op = .draw2)
    {bytes : List Byte} : Answers i s (panelDraw op bytes s) :=
  .admitted fun hst => .launch (.draw hi hne hop hst bytes)

theorem Answers.drawPlanes (hi : isPanelInstr i = true) (hne : i ≠ .init ∧ i ≠ .sleep) (hop : op = .draw ∨ op = .draw2)
    {b k : List Byte} : Answers i s (drawPlanes op b k s) :=
  .checkLen (.checkLen (.panelDraw hi hne hop))

/-- A CLEAR row past its variant check (R136, R162, R165). -/
theorem Answers.panelClear (hi : isPanelInstr i = true) (hne : i ≠ .init ∧ i ≠ .sleep) {plan : List (Byte × Byte)} {n : Nat} :
    Answers i s (panelClear plan n s) :=
  .admitted fun hst => .launch (.clear hi hne hst plan n)

end

theorem answers_packMono (px : PixelMap) (s : State) : Answers (.packMono px) s (execPackMono px s) := by
  refine .whenIdle ?_
  split
  · exact .give
  · exact .refused

theorem answers_getPixel (b : Buf) (x y : Int) (s : State) : Answers (.getPixel b x y) s (execGetPixel b x y s) := by
  refine .whenIdle (.checkLen ?_)
  split
  · exact .raise rfl
  · exact .give

theorem answers_setPixel (b : Buf) (x y : Int) (v : Bool) (s : State) :
    Answers (.setPixel b x y v) s (execSetPixel b x y v s) := by
  refine .whenIdle ?_
  split
  · exact .refused
  · split
    · exact .give
    · split
      · exact .raise rfl
      · exact .putSurfacePixel rfl

/-- Starting an instruction answers one of the four forms, each row by the checks of its own meaning. -/
theorem exec_answers (i : Instr) (s : State) : Answers i s (exec i s) := by
  cases i with
  | transfer b => exact .whenIdle (.launch (.transfer b))
  | sendCommand opcode => exact .whenIdle (.launch (.sendCommand opcode))
  | sendData b => exact .whenIdle (.launch (.sendData b))
  | reset => exact .whenIdle (.advance .reset)
  | init => exact .whenIdle (.admitted fun hst => .launch (.init hst))
  | waitUntilIdle => exact .whenIdle (.launch .waitUntilIdle)
  | sleep => exact .whenIdle (.admitted fun hst => .launch (.sleep hst))
  | draw2 | bichroDraw => exact .whenIdle (.onVariant (.drawPlanes rfl (by simp) (by simp)))
  | monoDraw => exact .whenIdle (.onVariant (.checkLen (.panelDraw rfl (by simp) (by simp))))
  | monoClear | bichroClear => exact .whenIdle (.onVariant (.panelClear rfl (by simp)))
  | packMono px => exact answers_packMono px s
  | getPixel b x y => exact answers_getPixel b x y s
  | setPixel b x y v => exact answers_setPixel b x y v s
  | packBichro => exact .whenIdle (.checkLen .give)
  | pixelBlack | pixelWhite | pixelColor | frameByte | monoByte => exact .whenIdle .give
  | send | powerSetting | panelSetting | pllControl | vcomDataInterval | boosterSoftStart | tconResolution
  | dataStart | dataStart2 | displayRefresh | powerOff | deepSleep | getStatus =>
    exact .whenIdle (.launch (.send rfl (by simp) _ _))

theorem exec_startedAs {i : Instr} {s t : State} (h : exec i s = .next t) : StartedAs i s t := exec_answers i s t h

/-! ### The families of instructions exclude each other -/

theorem not_isPureInstr_of_isTransportInstr {i : Instr} (h : isTransportInstr i = true) : isPureInstr i = false := by
  cases i <;> simp_all [isTransportInstr, isPureInstr]

theorem not_isPureInstr_of_isPanelInstr {i : Instr} (h : isPanelInstr i = true) : isPureInstr i = false := by
  cases i <;> simp_all [isPanelInstr, isPureInstr]

theorem not_isTransportInstr_of_isPanelInstr {i : Instr} (h : isPanelInstr i = true) : isTransportInstr i = false := by
  cases i <;> simp_all [isPanelInstr, isTransportInstr]

end Sys2Proof.Machine
end

section
/-! Which lines the operations are made of (R7), by kind: the lines of the bus, and the lines that write neither `ST` nor the
reset line. -/

namespace Sys2Proof.Machine

/-- The lines of a bus phase: DC, chip-select and writes (R110 to R113). -/
def Line.isBus : Line → Bool
  | .setDc _ | .csAssert | .csDeassert | .wr _ _ => true
  | .setRst _ | .delay _ | .pollsZero | .sample | .setSt _ => false

/-- The lines that write neither `ST` nor the reset line. -/
def Line.isPlain : Line → Bool
  | .setRst _ | .setSt _ => false
  | .setDc _ | .csAssert | .csDeassert | .wr _ _ | .delay _ | .pollsZero | .sample => true

theorem Line.isPlain_of_isBus {l : Line} (h : l.isBus = true) : l.isPlain = true := by
  cases l <;> simp_all [Line.isBus, Line.isPlain]

/-- The chunk loop is writes alone (R110). -/
theorem exists_wr_of_mem_chunkLines {c n off : Nat} {bytes : List Byte} {l : Line} (h : l ∈ chunkLines c n off bytes) :
    ∃ o k, l = .wr o k := by
  induction n generalizing off bytes with
  | zero => cases h
  | succ n ih =>
    cases bytes with
    | nil => cases h
    | cons b bs =>
      rcases List.mem_cons.mp h with rfl | h
      · exact ⟨_, _, rfl⟩
      · exact ih h

/-- TRANSFER drives chip-select and writes, and nothing else (R110). -/
theorem mem_transferLines {c : Cfg} {bytes : List Byte} {l : Line} (h : l ∈ transferLines c bytes) :
    l = .csAssert ∨ l = .csDeassert ∨ ∃ o k, l = .wr o k := by
  simp only [transferLines, List.mem_cons, List.mem_append, List.not_mem_nil, or_false] at h
  rcases h with h | h | h
  · exact .inl h
  · exact .inr (.inr (exists_wr_of_mem_chunkLines h))
  · exact .inr (.inl h)

theorem setDc_not_mem_transferLines (c : Cfg) (bytes : List Byte) (v : Level) : .setDc v ∉ transferLines c bytes := by
  intro h
  rcases mem_transferLines h with h | h | ⟨_, _, h⟩ <;> cases h

theorem transferLines_isBus (c : Cfg) (bytes : List Byte) : ∀ l ∈ transferLines c bytes, l.isBus = true := by
  intro l h
  rcases mem_transferLines h with rfl | rfl | ⟨_, _, rfl⟩ <;> rfl

theorem sendCommandLines_isBus (c : Cfg) (opcode : Byte) : ∀ l ∈ sendCommandLines c opcode, l.isBus = true :=
  List.forall_mem_cons.mpr ⟨rfl, transferLines_isBus c _⟩

theorem sendDataLines_isBus (c : Cfg) (bytes : List Byte) : ∀ l ∈ sendDataLines c bytes, l.isBus = true := by
  unfold sendDataLines
  split
  · exact List.forall_mem_nil _
  · exact List.forall_mem_cons.mpr ⟨rfl, transferLines_isBus c bytes⟩

theorem sendLines_isBus (c : Cfg) (opcode : Byte) (payload : List Byte) : ∀ l ∈ sendLines c opcode payload, l.isBus = true :=
  List.forall_mem_append.mpr ⟨sendCommandLines_isBus c opcode, sendDataLines_isBus c payload⟩

/-- The table loop of INIT is wire commands alone (R132). -/
theorem tableLines_isBus (c : Cfg) (table : List (Byte × List Byte)) : ∀ l ∈ tableLines c table, l.isBus = true := by
  induction table with
  | nil => exact List.forall_mem_nil _
  | cons e rest ih => exact List.forall_mem_append.mpr ⟨sendLines_isBus c e.1 e.2, ih⟩

/-- The plan loop of PANEL_CLEAR is wire commands alone (R136). -/
theorem planLines_isBus (c : Cfg) (n : Nat) (plan : List (Byte × Byte)) : ∀ l ∈ planLines c n plan, l.isBus = true := by
  rw [planLines_eq_tableLines]
  exact tableLines_isBus c _

theorem isPlain_of_isBus {ls : List Line} (h : ∀ l ∈ ls, l.isBus = true) : ∀ l ∈ ls, l.isPlain = true :=
  fun l hl => Line.isPlain_of_isBus (h l hl)

theorem sendLines_isPlain (c : Cfg) (opcode : Byte) (payload : List Byte) :
    ∀ l ∈ sendLines c opcode payload, l.isPlain = true :=
  isPlain_of_isBus (sendLines_isBus c opcode payload)

theorem pollLines_isPlain (c : Cfg) : ∀ l ∈ pollLines c, l.isPlain = true :=
  List.forall_mem_append.mpr ⟨sendLines_isPlain c _ _, by simp [Line.isPlain]⟩

theorem waitLines_isPlain (c : Cfg) : ∀ l ∈ waitLines c, l.isPlain = true :=
  List.forall_mem_cons.mpr ⟨rfl, List.forall_mem_append.mpr ⟨pollLines_isPlain c, by simp [Line.isPlain]⟩⟩

theorem refreshLines_isPlain (c : Cfg) : ∀ l ∈ refreshLines c, l.isPlain = true :=
  List.forall_mem_append.mpr ⟨sendLines_isPlain c _ _, List.forall_mem_cons.mpr ⟨rfl, waitLines_isPlain c⟩⟩

theorem drawLines_isPlain (c : Cfg) (bytes : List Byte) : ∀ l ∈ drawLines c bytes, l.isPlain = true :=
  List.forall_mem_append.mpr ⟨sendLines_isPlain c _ _, refreshLines_isPlain c⟩

theorem clearLines_isPlain (c : Cfg) (plan : List (Byte × Byte)) (n : Nat) : ∀ l ∈ clearLines c plan n, l.isPlain = true :=
  List.forall_mem_append.mpr ⟨isPlain_of_isBus (planLines_isBus c n plan), refreshLines_isPlain c⟩

/-- INIT writes `ST` as Initializing and as Ready, and never the reset line (R132). -/
theorem isPlain_of_mem_initLines {c : Cfg} {l : Line} (h : l ∈ initLines c) :
    l.isPlain = true ∨ l = .setSt .initializing ∨ l = .setSt .ready := by
  simp only [initLines, List.mem_cons, List.mem_append, List.not_mem_nil, or_false] at h
  rcases h with h | h | h | h
  · exact .inr (.inl h)
  · exact .inl (isPlain_of_isBus (tableLines_isBus c _) l h)
  · exact .inl (waitLines_isPlain c l h)
  · exact .inr (.inr h)

/-- SLEEP writes `ST` as Sleeping alone, and never the reset line (R137). -/
theorem isPlain_of_mem_sleepLines {c : Cfg} {l : Line} (h : l ∈ sleepLines c) : l.isPlain = true ∨ l = .setSt .sleeping := by
  simp only [sleepLines, List.mem_cons, List.mem_append, List.not_mem_nil, or_false] at h
  rcases h with h | h | h | h
  · exact .inl (sendLines_isPlain c _ _ l h)
  · exact .inl (waitLines_isPlain c l h)
  · exact .inl (sendLines_isPlain c _ _ l h)
  · exact .inr h

theorem setRst_not_mem_of_isPlain {ls : List Line} (h : ∀ l ∈ ls, l.isPlain = true) (v : Level) : .setRst v ∉ ls :=
  fun hv => nomatch h _ hv

theorem setSt_not_mem_of_isPlain {ls : List Line} (h : ∀ l ∈ ls, l.isPlain = true) (st : St) : .setSt st ∉ ls :=
  fun hv => nomatch h _ hv

theorem sample_not_mem_of_isBus {ls : List Line} (h : ∀ l ∈ ls, l.isBus = true) : .sample ∉ ls :=
  fun hv => nomatch h _ hv

/-- No lines that follow a poll loop drive the reset line (R132, R133, R135 to R137). -/
theorem setRst_not_mem_afterWait {c : Cfg} {op : OpName} {rest : List Line} (h : afterWait c op = some rest) (v : Level) :
    .setRst v ∉ rest := by
  have hsend := setRst_not_mem_of_isPlain (sendLines_isPlain c c.opDeepSleep c.plDeepSleep) v
  cases op <;> cases h <;> simp [hsend]

/-! ### The bus phases of the instructions -/

/-- A Bus Transport operation or a wire command runs bus lines alone, as an operation that never leads to Fault (R138). -/
theorem Runs.isBus {s : State} {i : Instr} {op : OpName} {ls : List Line} (h : Runs s i op ls) (hi : isTransportInstr i = true) :
    isPanelOp op = false ∧ ∀ l ∈ ls, l.isBus = true := by
  cases h with
  | transfer b => exact ⟨rfl, transferLines_isBus _ _⟩
  | sendCommand opcode => exact ⟨rfl, sendCommandLines_isBus _ _⟩
  | sendData b => exact ⟨rfl, sendDataLines_isBus _ _⟩
  | send => exact ⟨rfl, sendLines_isBus _ _ _⟩
  | draw hp | clear hp => simp [not_isTransportInstr_of_isPanelInstr hp] at hi
  | reset | init | waitUntilIdle | sleep => cases hi

/-- TRANSFER does not drive DC (R110). -/
theorem Runs.setDc_not_mem {s : State} {b : Buf} {op : OpName} {ls : List Line} (h : Runs s (.transfer b) op ls) (v : Level) :
    .setDc v ∉ ls := by
  cases h with
  | transfer => exact setDc_not_mem_transferLines _ _ v
  | send _ hne => exact absurd rfl (hne b)
  | draw hp | clear hp => cases hp

/-- No operation but RESET drives the reset line (R131). -/
theorem Runs.setRst_not_mem {s : State} {i : Instr} {op : OpName} {ls : List Line} (h : Runs s i op ls) (hi : i ≠ .reset)
    (v : Level) : .setRst v ∉ ls := by
  cases h with
  | transfer b => exact setRst_not_mem_of_isPlain (isPlain_of_isBus (transferLines_isBus _ _)) v
  | sendCommand opcode => exact setRst_not_mem_of_isPlain (isPlain_of_isBus (sendCommandLines_isBus _ _)) v
  | sendData b => exact setRst_not_mem_of_isPlain (isPlain_of_isBus (sendDataLines_isBus _ _)) v
  | send => exact setRst_not_mem_of_isPlain (sendLines_isPlain _ _ _) v
  | reset => exact absurd rfl hi
  | init => exact fun hv => by simpa [Line.isPlain] using isPlain_of_mem_initLines hv
  | waitUntilIdle => exact setRst_not_mem_of_isPlain (waitLines_isPlain _) v
  | sleep => exact fun hv => by simpa [Line.isPlain] using isPlain_of_mem_sleepLines hv
  | draw => exact setRst_not_mem_of_isPlain (drawLines_isPlain _ _) v
  | clear => exact setRst_not_mem_of_isPlain (clearLines_isPlain _ _ _) v

end Sys2Proof.Machine
end

section
/-! What running lines leaves as it was and what it may write, by the lines that are run; and what no step takes back: CFG, the
error policy, the trace, the results and the counts of the environment's answers (R21, R33, R227). -/

namespace Sys2Proof.Machine

/-! ### What is only added to -/

/-- `t` comes after `s` in a run: CFG and the error policy are the same, and the trace, the results and the counts of answers
have only grown. -/
structure Extends (s t : State) : Prop where
  cfg : t.cfg = s.cfg
  onError : t.onError = s.onError
  trace : s.trace <+: t.trace
  returns : s.returns <+: t.returns
  wrCount : s.wrCount ≤ t.wrCount
  busyCount : s.busyCount ≤ t.busyCount

theorem Extends.refl (s : State) : Extends s s :=
  ⟨rfl, rfl, List.prefix_rfl, List.prefix_rfl, Nat.le_refl _, Nat.le_refl _⟩

theorem Extends.trans {s t u : State} (h : Extends s t) (k : Extends t u) : Extends s u :=
  ⟨k.cfg.trans h.cfg, k.onError.trans h.onError, h.trace.trans k.trace, h.returns.trans k.returns,
   h.wrCount.trans k.wrCount, h.busyCount.trans k.busyCount⟩

theorem Extends.finish (s : State) (r : Ret) : Extends s (s.finish r) :=
  ⟨rfl, rfl, List.prefix_rfl, List.prefix_append _ _, Nat.le_refl _, Nat.le_refl _⟩

theorem Extends.raiseIn (s : State) (op : OpName) (e : Err) : Extends s (s.raiseIn op e) :=
  ⟨by simp, by simp, by simp, by simp, by simp, by simp⟩

theorem Extends.putBytes (s : State) (b : Buf) (bytes : List Byte) : Extends s (s.putBytes b bytes) :=
  ⟨by simp, by simp, by simp, by simp, by simp, by simp⟩

theorem LinesKeep.toExtends {s u : State} (h : LinesKeep s u) : Extends s u :=
  ⟨h.cfg, h.onError, h.trace, by rw [h.returns], h.wrCount, h.busyCount⟩

theorem Extends.atSeq (s : State) (q : Seq) : Extends s (s.atSeq q) :=
  ⟨rfl, rfl, List.prefix_rfl, List.prefix_rfl, Nat.le_refl _, Nat.le_refl _⟩

theorem Extends.advance (op : OpName) (ls : List Line) (s : State) : Extends s (advance op ls s) := by
  obtain ⟨u, hu, h | ⟨e, -, h⟩ | ⟨_, _, -, -, -, h⟩⟩ := advance_cases op ls s <;> rw [h]
  · exact hu.toExtends.trans (.finish u _)
  · exact hu.toExtends.trans (.raiseIn u op e)
  · exact hu.toExtends.trans (.atSeq u _)

/-- Starting an instruction takes nothing back. -/
theorem Extends.exec {i : Instr} {s t : State} (h : exec i s = .next t) : Extends s t := by
  cases exec_startedAs h with
  | gave v h => exact h ▸ .finish s _
  | stored _ b bytes v h => exact h ▸ (Extends.putBytes s b bytes).trans (.finish _ _)
  | raised op e _ h => exact h ▸ .raiseIn s op e
  | ran op ls _ h => exact h ▸ .advance op ls s

/-- Running lines returns at most one result (R9). -/
theorem advance_returns (op : OpName) (ls : List Line) (s : State) :
    (advance op ls s).returns = s.returns ∨ ∃ r, (advance op ls s).returns = s.returns ++ [r] := by
  obtain ⟨u, hu, h | ⟨e, -, h⟩ | ⟨_, _, -, -, -, h⟩⟩ := advance_cases op ls s <;> rw [h]
  · exact .inr ⟨_, by rw [State.finish_returns, hu.returns]⟩
  · exact .inr ⟨_, by rw [State.raiseIn_returns, hu.returns]⟩
  · exact .inl hu.returns

/-- An operation with no sample among its lines ends in the step that runs them, with one result (R9, R27). -/
theorem advance_ends (op : OpName) (ls : List Line) (s : State) (hn : .sample ∉ ls) :
    (advance op ls s).seq = .idle ∧ ∃ r, (advance op ls s).returns = s.returns ++ [r] := by
  obtain ⟨u, hu, h | ⟨e, -, h⟩ | ⟨pre, post, rfl, -⟩⟩ := advance_cases op ls s
  · exact h ▸ ⟨rfl, _, by rw [State.finish_returns, hu.returns]⟩
  · exact h ▸ ⟨rfl, _, by rw [State.raiseIn_returns, hu.returns]⟩
  · exact absurd (List.mem_append_right pre List.mem_cons_self) hn

theorem advance_cons_raise {op : OpName} {l : Line} {ls : List Line} {s t : State} {e : Err} (h : runLine l s = .raise e t) :
    advance op (l :: ls) s = t.raiseIn op e := by
  simp [advance, h]

theorem advance_cons_busy {op : OpName} {l : Line} {ls : List Line} {s t : State} (h : runLine l s = .busy t) :
    advance op (l :: ls) s = t.atSeq (.running op (pollLines t.cfg ++ ls)) := by
  simp [advance, h, State.atSeq]

/-! ### Fields that lines leave alone -/

/-- The state a line leaves, whichever way it ends. -/
def Flow.state : Flow → State
  | .next s => s
  | .raise _ s => s
  | .busy s => s

/-- What none of the lines changes, nor the end of an operation, an error or a turn of its poll loop, running them leaves as it
was. -/
theorem advance_keeps {α : Type} (f : State → α) (op : OpName) (ls : List Line) (s : State)
    (hline : ∀ l ∈ ls, ∀ u, f (runLine l u).state = f u) (hfinish : ∀ u r, f (u.finish r) = f u)
    (hraise : ∀ u e, f (u.raiseIn op e) = f u) (hseq : ∀ u q, f (u.atSeq q) = f u) : f (advance op ls s) = f s := by
  refine advance_induction (P := fun ls' u => ls' ⊆ ls ∧ f u = f s) (Q := fun u => f u = f s) ?_ ?_ ?_ ?_ ls s
    ⟨List.Subset.refl _, rfl⟩
  · exact fun u hu => (hfinish u _).trans hu.2
  · intro l ls' u t hu hl
    have hkeep := hline l (hu.1 List.mem_cons_self) u
    rw [hl] at hkeep
    exact ⟨fun m hm => hu.1 (List.mem_cons_of_mem l hm), hkeep.trans hu.2⟩
  · intro l ls' u e t hu hl
    have hkeep := hline l (hu.1 List.mem_cons_self) u
    rw [hl] at hkeep
    exact (hraise t e).trans (hkeep.trans hu.2)
  · intro l ls' u t hu hl
    have hkeep := hline l (hu.1 List.mem_cons_self) u
    rw [hl] at hkeep
    exact (hseq t _).trans (hkeep.trans hu.2)

/-- A write leaves the same state whether or not it was taken whole (R114). -/
theorem runLine_wr_state (off : Nat) (k : List Byte) (s : State) : (runLine (.wr off k) s).state = s.wr k := by
  simp only [runLine]
  split <;> rfl

/-- A sample leaves the same state whichever way its tests go (R133). -/
theorem runLine_sample_state (s : State) : (runLine .sample s).state = s.sampleBusy := by
  simp only [runLine]
  split
  · rfl
  · split <;> rfl

/-- A line that is no `set DC` leaves the DC latch (R22). -/
theorem runLine_dcL {l : Line} (h : ∀ v, l ≠ .setDc v) (s : State) : (runLine l s).state.dcL = s.dcL := by
  cases l with
  | setDc v => exact absurd rfl (h v)
  | setRst | csAssert | csDeassert | delay | pollsZero | setSt => rfl
  | wr off k => rw [runLine_wr_state, State.wr_dcL]
  | sample => rw [runLine_sample_state, State.sampleBusy_dcL]

/-- A line that is no sample uses up no busy level (R24). -/
theorem runLine_busyAnswers {l : Line} (h : l ≠ .sample) (s : State) :
    ((runLine l s).state.busyQueue, (runLine l s).state.busyCount) = (s.busyQueue, s.busyCount) := by
  cases l with
  | sample => exact absurd rfl h
  | setRst | setDc | csAssert | csDeassert | delay | pollsZero | setSt => rfl
  | wr off k => rw [runLine_wr_state, State.wr_busyQueue, State.wr_busyCount]

theorem advance_dcL (op : OpName) (ls : List Line) (s : State) (hn : ∀ v, .setDc v ∉ ls) : (advance op ls s).dcL = s.dcL :=
  advance_keeps State.dcL op ls s (fun _ hl => runLine_dcL fun v hv => hn v (hv ▸ hl)) (fun _ _ => rfl) (by simp)
    (fun _ _ => rfl)

theorem advance_busyAnswers (op : OpName) (ls : List Line) (s : State) (hn : .sample ∉ ls) :
    (advance op ls s).busyQueue = s.busyQueue ∧ (advance op ls s).busyCount = s.busyCount := by
  have hkeep := advance_keeps (fun u => (u.busyQueue, u.busyCount)) op ls s
    (fun _ hl => runLine_busyAnswers fun hs => hn (hs ▸ hl)) (fun _ _ => rfl) (by simp) (fun _ _ => rfl)
  exact Prod.mk.inj hkeep

/-! ### What is written to `ST` -/

/-- A line that lets the operation go on writes `ST` only as `ST <- st` says (R23). -/
theorem runLine_next_st {l : Line} {s t : State} (h : runLine l s = .next t) : t.st = s.st ∨ l = .setSt t.st := by
  rcases runLine_next h with ⟨v, -, rfl⟩ | ⟨v, -, rfl⟩ | ⟨-, rfl⟩ | ⟨-, rfl⟩ | ⟨o, k, -, -, rfl⟩ | ⟨m, -, rfl⟩ | ⟨-, rfl⟩ |
    ⟨-, -, rfl⟩ | ⟨st, rfl, rfl⟩
  any_goals exact .inl rfl
  exact .inr rfl

theorem runLine_raise_st {l : Line} {s t : State} {e : Err} (h : runLine l s = .raise e t) : t.st = s.st := by
  rcases runLine_raise h with ⟨o, k, -, -, -, rfl⟩ | ⟨-, -, -, -, rfl⟩ <;> rfl

theorem runLine_busy_st {l : Line} {s t : State} (h : runLine l s = .busy t) : t.st = s.st := by
  obtain ⟨-, -, -, rfl⟩ := runLine_busy h
  rfl

/-- An error leaves `ST`, or takes it to Fault in a panel operation (R138). -/
theorem State.raiseIn_st_cases (s : State) (op : OpName) (e : Err) :
    (s.raiseIn op e).st = s.st ∨ isPanelOp op = true ∧ (s.raiseIn op e).st = .fault := by
  rw [State.raiseIn_st]
  split
  · exact .inr ⟨(Bool.and_eq_true_iff.mp ‹_›).1, rfl⟩
  · exact .inl rfl

/-- Running lines leaves `ST`, writes it as one of the lines says, or ends a panel operation in Fault (R23, R138). -/
theorem advance_st_cases (op : OpName) (ls : List Line) (s : State) :
    (advance op ls s).st = s.st ∨ .setSt (advance op ls s).st ∈ ls ∨ isPanelOp op = true ∧ (advance op ls s).st = .fault := by
  induction ls generalizing s with
  | nil => exact .inl rfl
  | cons l ls ih =>
    cases hr : runLine l s with
    | next t =>
      rw [advance_cons_next hr]
      rcases ih t with h | h | h
      · rw [h]
        refine (runLine_next_st hr).imp_right fun hl => .inl ?_
        rw [← hl]
        exact List.mem_cons_self
      · exact .inr (.inl (List.mem_cons_of_mem l h))
      · exact .inr (.inr h)
    | raise e t =>
      rw [advance_cons_raise hr, ← runLine_raise_st hr]
      exact (t.raiseIn_st_cases op e).imp_right .inr
    | busy t =>
      rw [advance_cons_busy hr]
      exact .inl (runLine_busy_st (t := t) hr)

theorem advance_st_of_isPlain (op : OpName) (ls : List Line) (s : State) (h : ∀ l ∈ ls, l.isPlain = true) :
    (advance op ls s).st = s.st ∨ isPanelOp op = true ∧ (advance op ls s).st = .fault :=
  (advance_st_cases op ls s).imp_right fun hw => hw.resolve_left (setSt_not_mem_of_isPlain h _)

/-- Outside the panel operations lines that do not write `ST` leave it (R23, R138). -/
theorem advance_st_eq (op : OpName) (ls : List Line) (s : State) (hop : isPanelOp op = false)
    (h : ∀ l ∈ ls, l.isPlain = true) : (advance op ls s).st = s.st :=
  (advance_st_of_isPlain op ls s h).resolve_right fun hf => by simp [hop] at hf

end Sys2Proof.Machine
end

section
/-! The settled statements on what construction gives, what a step runs, and what the operations and every step leave as it was
(10_state.md; R21 to R23, R27, R31, R110 to R113, R131 to R138). -/

namespace Sys2Proof.Machine

/-- Settles O1: every field is read off `State.construct`. -/
theorem constructionLeavesUnpowered : Obligations.ConstructionLeavesUnpowered :=
  ⟨fun _ => ⟨rfl, rfl, rfl, rfl⟩, rfl⟩

theorem State.work_of_start {s : State} {w : Encoded} {rest : List Encoded} {i : Instr} (hs : s.seq = .idle)
    (hp : s.program = w :: rest) (hd : decode s.cfg w = .ok i) : s.work = .start i rest := by
  simp [State.work, hs, hp, hd]

theorem State.work_of_undecodable {s : State} {w : Encoded} {rest : List Encoded} {e : DecodeError} (hs : s.seq = .idle)
    (hp : s.program = w :: rest) (hd : decode s.cfg w = .error e) : s.work = .undecodable e := by
  simp [State.work, hs, hp, hd]

theorem State.work_of_wait {s : State} (hs : s.seq = .idle) (hp : s.program = []) : s.work = .wait := by
  simp [State.work, hs, hp]

theorem State.work_of_running {s : State} {op : OpName} {ls : List Line} (hs : s.seq = .running op ls) :
    s.work = .goOn op ls := by
  simp [State.work, hs]

/-- Settles O2: the step is read off the work the state has. -/
theorem stepRunsDecodedInstruction : Obligations.StepRunsDecodedInstruction := by
  refine ⟨fun s w rest i hs hp hd => ?_, fun s w rest e hs hp hd => ?_, fun s hs hp => ?_, fun s op ls hs => ?_⟩
  · rw [step, State.work_of_start hs hp hd]
  · rw [step, State.work_of_undecodable hs hp hd]
  · rw [step, State.work_of_wait hs hp]
  · rw [step, State.work_of_running hs]

/-- Settles O49: the trace is empty, SEQ idle, no buffer is listed, and the example configuration is well formed. -/
theorem invariantsHoldAtReset : Obligations.InvariantsHoldAtReset := by
  have hlatches : LatchesHoldTrace State.reset := ⟨nofun, nofun, nofun⟩
  exact ⟨nofun, rfl, rfl, rfl, hlatches, by decide, by decide⟩

/-- Settles O55: each of the three kinds of step only adds to the history. -/
theorem stepOnlyAddsHistory : Obligations.StepOnlyAddsHistory := by
  intro s t h
  have hext : Extends s t := by
    rcases step_cases h with ⟨op, ls, -, rfl⟩ | ⟨-, -, rfl⟩ | ⟨-, w, rest, i, -, -, hi⟩
    · exact .advance op ls s
    · exact .refl t
    · obtain ⟨hcfg, honError, htrace, hreturns, hwr, hbusy⟩ := Extends.exec hi
      exact ⟨hcfg, honError, htrace, hreturns, hwr, hbusy⟩
  exact ⟨hext.cfg, hext.trace, hext.returns, hext.onError, hext.wrCount, hext.busyCount⟩

/-- Settles O13: a Bus Transport operation runs bus lines alone, which hold no sample, no reset line and no `ST`. -/
theorem transportFrame : Obligations.TransportFrame := by
  intro i s t hi h
  have hext := Extends.exec h
  cases exec_startedAs h with
  | gave v h => simp [h]
  | stored hp => simp [not_isPureInstr_of_isTransportInstr hi] at hp
  | raised op e hb h => simp [h, hb]
  | ran op ls hr h =>
    subst h
    obtain ⟨hop, hbus⟩ := hr.isBus hi
    have hplain := isPlain_of_isBus hbus
    have hsample := sample_not_mem_of_isBus hbus
    obtain ⟨hqueue, hcount⟩ := advance_busyAnswers op ls s hsample
    obtain ⟨hseq, hret⟩ := advance_ends op ls s hsample
    refine ⟨advance_st_eq op ls s hop hplain, advance_rstL op ls s (setRst_not_mem_of_isPlain hplain), advance_cfg op ls s,
      advance_bufs op ls s, hext.onError, hqueue, hcount, hseq, hext.trace, hret, ?_⟩
    rintro ⟨b, rfl⟩
    exact advance_dcL op ls s hr.setDc_not_mem

/-! ### What the panel operations write to `ST` -/

/-- What an instruction may write to `ST`, as R132, R133, R137 and R138 say: a wait nothing, INIT Initializing, Ready or Fault,
SLEEP Sleeping or Fault, a draw or clear Fault. -/
def WritesSt (i : Instr) (old new : St) : Prop :=
  (i = .waitUntilIdle → new = old) ∧ (i = .init → new = old ∨ new = .initializing ∨ new = .ready ∨ new = .fault) ∧
  (i = .sleep → new = old ∨ new = .sleeping ∨ new = .fault) ∧
  (isPanelInstr i = true → i ≠ .init → i ≠ .sleep → new = old ∨ new = .fault)

theorem WritesSt.of_eq {i : Instr} {old new : St} (h : new = old) : WritesSt i old new :=
  ⟨fun _ => h, fun _ => .inl h, fun _ => .inl h, fun _ _ _ => .inl h⟩

/-- A draw or clear, which is neither INIT nor SLEEP nor a wait. -/
theorem WritesSt.of_fault {i : Instr} {old new : St} (hi : isPanelInstr i = true) (hne : i ≠ .init ∧ i ≠ .sleep)
    (h : new = old ∨ new = .fault) : WritesSt i old new :=
  ⟨fun hw => by simp [hw, isPanelInstr] at hi, fun hn => absurd hn hne.1, fun hs => absurd hs hne.2, fun _ _ _ => h⟩

theorem Runs.writesSt {s : State} {i : Instr} {op : OpName} {ls : List Line} (h : Runs s i op ls)
    (hi : isPanelInstr i = true ∨ i = .waitUntilIdle) : WritesSt i s.st (advance op ls s).st := by
  cases h with
  | transfer | sendCommand | sendData | reset => simp [isPanelInstr] at hi
  | send ht =>
    rcases hi with hi | rfl
    · simp [not_isTransportInstr_of_isPanelInstr hi] at ht
    · cases ht
  | waitUntilIdle => exact .of_eq (advance_st_eq _ _ s rfl (waitLines_isPlain _))
  | init =>
    refine ⟨nofun, fun _ => ?_, nofun, fun _ hne => absurd rfl hne⟩
    rcases advance_st_cases .init (initLines s.cfg) s with h | h | ⟨-, h⟩
    · exact .inl h
    · exact .inr ((by simpa [Line.isPlain] using isPlain_of_mem_initLines h : _ ∨ _).imp_right .inl)
    · exact .inr (.inr (.inr h))
  | sleep =>
    refine ⟨nofun, nofun, fun _ => ?_, fun _ _ hne => absurd rfl hne⟩
    rcases advance_st_cases .sleep (sleepLines s.cfg) s with h | h | ⟨-, h⟩
    · exact .inl h
    · exact .inr (.inl (by simpa [Line.isPlain] using isPlain_of_mem_sleepLines h))
    · exact .inr (.inr h)
  | draw hp hne _ _ bytes =>
    exact .of_fault hp hne ((advance_st_of_isPlain _ _ s (drawLines_isPlain _ _)).imp_right And.right)
  | clear hp hne _ plan n =>
    exact .of_fault hp hne ((advance_st_of_isPlain _ _ s (clearLines_isPlain _ _ _)).imp_right And.right)

/-- Settles O27: a panel operation and a wait answer an error before the bus phase or run lines with no reset line, and write
`ST` as `WritesSt` says. -/
theorem panelFrame : Obligations.PanelFrame := by
  intro i s t hi h
  have hext := Extends.exec h
  cases exec_startedAs h with
  | gave v h =>
    subst h
    exact ⟨rfl, rfl, rfl, rfl, hext.trace, .inr ⟨_, rfl⟩, WritesSt.of_eq rfl⟩
  | stored hp =>
    rcases hi with hi | rfl
    · simp [not_isPureInstr_of_isPanelInstr hi] at hp
    · cases hp
  | raised op e hb h =>
    subst h
    exact ⟨by simp, by simp, by simp, by simp, hext.trace, .inr ⟨_, s.raiseIn_returns op e⟩, WritesSt.of_eq (by simp [hb])⟩
  | ran op ls hr h =>
    subst h
    have hne : i ≠ .reset := by
      rintro rfl
      simp [isPanelInstr] at hi
    exact ⟨advance_rstL op ls s (hr.setRst_not_mem hne), advance_cfg op ls s, advance_bufs op ls s, hext.onError, hext.trace,
      advance_returns op ls s, hr.writesSt hi⟩

end Sys2Proof.Machine
end

section
/-! The invariants that every step keeps: the poll count, the latches, SEQ in step with `ST`; who leaves Sleeping and Fault, who
drives the reset line; and a step as its lines one by one (R22, R23, R27, R130 to R133, R138). -/

namespace Sys2Proof.Machine

/-! ### The poll count (R27, R133) -/

/-- Running lines ends with SEQ idle and no poll count, or at the head of a turn within the budget. -/
theorem advance_pollsInv (op : OpName) (ls : List Line) (s : State) : PollsInv (advance op ls s) := by
  obtain ⟨u, -, h | ⟨e, -, h⟩ | ⟨_, _, -, hpos, hbudget, h⟩⟩ := advance_cases op ls s <;> rw [h]
  · exact rfl
  · exact rfl
  · exact ⟨hpos, hbudget⟩

/-- Settles O53: every operation ends or parks as `advance_pollsInv` says. -/
theorem stepKeepsPolls : Obligations.StepKeepsPolls := by
  intro s t hinv h
  rcases step_cases h with ⟨op, ls, -, rfl⟩ | ⟨-, -, rfl⟩ | ⟨-, w, rest, i, -, -, hi⟩
  · exact advance_pollsInv op ls s
  · exact hinv
  · cases exec_startedAs hi with
    | gave v h => exact h ▸ rfl
    | stored _ b bytes v h => exact h ▸ rfl
    | raised op e _ h => exact h ▸ rfl
    | ran op ls _ h => exact h ▸ advance_pollsInv op ls _

/-! ### A step as its lines one by one (R27) -/

theorem stepLines_running (op : OpName) (ls : List Line) (s : State) (hs : s.seq = .running op ls) :
    ∃ n, n ≤ ls.length + 1 ∧ stepLines n s = advance op ls s := by
  induction ls generalizing s with
  | nil => exact ⟨1, by simp, by simp [stepLines, stepLine, hs, advance]⟩
  | cons l ls ih =>
    have hline := stepLine_running op l ls s hs
    cases hr : runLine l s with
    | next t =>
      obtain ⟨n, hn, hlines⟩ := ih (t.atSeq (.running op ls)) rfl
      refine ⟨n + 1, by simpa using hn, ?_⟩
      rw [hr] at hline
      rw [advance_cons_next hr, ← advance_atSeq op ls t (.running op ls), ← hlines, stepLines, hline]
      rfl
    | raise e t =>
      rw [hr] at hline
      exact ⟨1, by simp, hline.trans (advance_cons_raise hr).symm⟩
    | busy t =>
      rw [hr] at hline
      exact ⟨1, by simp, hline.trans (advance_cons_busy hr).symm⟩

/-- Settles O56: by induction on the lines left, since running lines does not depend on where SEQ stands. -/
theorem stepIsLinesOneByOne : Obligations.StepIsLinesOneByOne := by
  intro s op ls hs
  obtain ⟨n, hn, hlines⟩ := stepLines_running op ls s hs
  exact ⟨n, advance op ls s, hn, stepRunsDecodedInstruction.2.2.2 s op ls hs, hlines⟩

/-! ### The latches against the trace (R22) -/

/-- The level an event drives on the reset line. -/
def Event.rst? : Event → Option Level
  | .rst l => some l
  | _ => none

/-- The level an event drives on DC. -/
def Event.dc? : Event → Option Level
  | .dc l => some l
  | _ => none

theorem lastRst_cons (e : Event) (es : List Event) : lastRst (e :: es) = (lastRst es).or e.rst? := by
  cases hl : lastRst es <;> cases e <;> simp [lastRst, hl, Event.rst?]

theorem lastRst_append (es : List Event) (e : Event) : lastRst (es ++ [e]) = e.rst?.or (lastRst es) := by
  induction es with
  | nil => simp [lastRst_cons, lastRst]
  | cons e' es ih => rw [List.cons_append, lastRst_cons, ih, lastRst_cons, Option.or_assoc]

theorem lastDc_cons (e : Event) (es : List Event) : lastDc (e :: es) = (lastDc es).or e.dc? := by
  cases hl : lastDc es <;> cases e <;> simp [lastDc, hl, Event.dc?]

theorem lastDc_append (es : List Event) (e : Event) : lastDc (es ++ [e]) = e.dc?.or (lastDc es) := by
  induction es with
  | nil => simp [lastDc_cons, lastDc]
  | cons e' es ih => rw [List.cons_append, lastDc_cons, ih, lastDc_cons, Option.or_assoc]

/-- What one more event says of chip-select is read with what the trace before it said. -/
theorem knownCs_append (c : Cfg) (l : Option Level) (es : List Event) (e : Event) :
    knownCs c l (es ++ [e]) = knownCs c (knownCs c l es) [e] := by
  induction es generalizing l with
  | nil => rfl
  | cons e' es ih => cases e' <;> exact ih _

/-- The latches and the trace are all that `LatchesHoldTrace` speaks of. -/
theorem LatchesHoldTrace.congr {s t : State} (h : LatchesHoldTrace s) (hcfg : t.cfg = s.cfg) (hrst : t.rstL = s.rstL)
    (hdc : t.dcL = s.dcL) (hcs : t.csL = s.csL) (htrace : t.trace = s.trace) : LatchesHoldTrace t := by
  unfold LatchesHoldTrace
  rw [hcfg, hrst, hdc, hcs, htrace]
  exact h

/-- One more event keeps the latches and the trace in step where each latch it drives takes the level it drives, and the others
stay. -/
theorem LatchesHoldTrace.event {s t : State} (h : LatchesHoldTrace s) (e : Event) (hcfg : t.cfg = s.cfg)
    (htrace : t.trace = s.trace ++ [e]) (hrst : t.rstL = e.rst?.getD s.rstL) (hdc : t.dcL = e.dc?.getD s.dcL)
    (hcs : ∀ l, knownCs s.cfg (knownCs s.cfg none s.trace) [e] = some l → t.csL = l) : LatchesHoldTrace t := by
  obtain ⟨holdRst, holdDc, -⟩ := h
  unfold LatchesHoldTrace
  rw [htrace, lastRst_append, lastDc_append, hcfg, knownCs_append, hrst, hdc]
  refine ⟨fun l hl => ?_, fun l hl => ?_, hcs⟩
  · cases he : e.rst? <;> simp_all
  · cases he : e.dc? <;> simp_all

/-- A line that lets the operation go on drives each latch with its event. -/
theorem LatchesHoldTrace.of_next {l : Line} {s t : State} (h : LatchesHoldTrace s) (hl : runLine l s = .next t) :
    LatchesHoldTrace t := by
  have holdCs := h.2.2
  rcases runLine_next hl with ⟨v, -, rfl⟩ | ⟨v, -, rfl⟩ | ⟨-, rfl⟩ | ⟨-, rfl⟩ | ⟨o, k, -, hk, rfl⟩ | ⟨m, -, rfl⟩ | ⟨-, rfl⟩ |
    ⟨-, -, rfl⟩ | ⟨st, -, rfl⟩
  · exact h.event (.rst v) rfl rfl rfl rfl holdCs
  · exact h.event (.dc v) rfl rfl rfl rfl holdCs
  · exact h.event .csAssert rfl rfl rfl rfl fun _ hc => Option.some.inj hc
  · exact h.event .csDeassert rfl rfl rfl rfl fun _ hc => Option.some.inj hc
  · exact h.event (.wr k _) rfl rfl rfl rfl fun l hc => holdCs l (by simpa [knownCs, hk] using hc)
  · exact h.event (.dly m) rfl rfl rfl rfl holdCs
  · exact h.congr rfl rfl rfl rfl rfl
  · exact h.event (.busy _) rfl rfl rfl rfl holdCs
  · exact h.congr rfl rfl rfl rfl rfl

/-- After a write that was not taken whole the trace knows nothing of chip-select (R110, R227); a sample drives no line. -/
theorem LatchesHoldTrace.of_raise {l : Line} {s t : State} {e : Err} (h : LatchesHoldTrace s) (op : OpName)
    (hl : runLine l s = .raise e t) : LatchesHoldTrace (t.raiseIn op e) := by
  rcases runLine_raise hl with ⟨o, k, -, hk, rfl, rfl⟩ | ⟨-, -, -, rfl, rfl⟩
  · exact h.event (.wr k (s.wrAnswer k.length)) (by simp) (by simp) (by simp [Event.rst?]) (by simp [Event.dc?])
      fun l hc => by simp [knownCs, hk] at hc
  · exact h.event (.busy (s.busyAt 0)) (by simp) (by simp) (by simp [Event.rst?]) (by simp [Event.dc?])
      fun l hc => (State.raiseIn_csL_of_ne _ op _ (by simp)).trans (h.2.2 l hc)

theorem LatchesHoldTrace.of_busy {l : Line} {s t : State} (h : LatchesHoldTrace s) (hl : runLine l s = .busy t) :
    LatchesHoldTrace t := by
  obtain ⟨-, -, -, rfl⟩ := runLine_busy hl
  exact h.event (.busy _) rfl rfl rfl rfl h.2.2

theorem LatchesHoldTrace.advance {s : State} (h : LatchesHoldTrace s) (op : OpName) (ls : List Line) :
    LatchesHoldTrace (advance op ls s) :=
  advance_induction (P := fun _ u => LatchesHoldTrace u) (fun _ hu => hu.congr rfl rfl rfl rfl rfl)
    (fun _ _ _ _ hu hl => hu.of_next hl) (fun _ _ _ _ _ hu hl => hu.of_raise op hl)
    (fun _ _ _ _ hu hl => (hu.of_busy hl).congr rfl rfl rfl rfl rfl) ls s h

/-- Settles O52: each line drives its latch with its event, and what drives no line changes neither latch nor trace. -/
theorem stepKeepsLatches : Obligations.StepKeepsLatches := by
  intro s t hinv h
  rcases step_cases h with ⟨op, ls, -, rfl⟩ | ⟨-, -, rfl⟩ | ⟨-, w, rest, i, -, -, hi⟩
  · exact hinv.advance op ls
  · exact hinv
  · have hstart : LatchesHoldTrace { s with program := rest } := hinv.congr rfl rfl rfl rfl rfl
    cases exec_startedAs hi with
    | gave v h => exact h ▸ hstart.congr rfl rfl rfl rfl rfl
    | stored _ b bytes v h => exact h ▸ hstart.congr (by simp) (by simp) (by simp) (by simp) (by simp)
    | raised op e hb h =>
      have hcs := State.raiseIn_csL_of_ne { s with program := rest } op e (by rintro o k r rfl; cases hb)
      exact h ▸ hstart.congr (by simp) (by simp) (by simp) hcs (by simp)
    | ran op ls _ h => exact h ▸ hstart.advance op ls

/-! ### SEQ in step with `ST` (R23, R27) -/

theorem SeqInv.of_idle {s : State} (h : SeqInv s) (hs : s.seq = .idle) : s.st ≠ .initializing := by
  simpa [SeqInv, hs] using h

theorem SeqInv.of_running {s : State} {op : OpName} {ls : List Line} (h : SeqInv s) (hs : s.seq = .running op ls) :
    stFits op s.st ∧ ∃ rest, afterWait s.cfg op = some rest ∧ ls = pollLines s.cfg ++ rest := by
  simpa [SeqInv, hs] using h

/-- Lines of operation `op` that, run with `ST = st`, keep SEQ and `ST` in step: wherever an error can be raised `ST` fits the
operation, what follows a sample is what follows the operation's poll loop, and at its return `ST` is not Initializing. -/
def KeepsSeq (c : Cfg) (op : OpName) : St → List Line → Prop
  | st, [] => st ≠ .initializing
  | _, .setSt st' :: ls => KeepsSeq c op st' ls
  | st, .wr _ _ :: ls => stFits op st ∧ KeepsSeq c op st ls
  | st, .sample :: ls => stFits op st ∧ afterWait c op = some ls ∧ KeepsSeq c op st ls
  | st, .setRst _ :: ls => KeepsSeq c op st ls
  | st, .setDc _ :: ls => KeepsSeq c op st ls
  | st, .csAssert :: ls => KeepsSeq c op st ls
  | st, .csDeassert :: ls => KeepsSeq c op st ls
  | st, .delay _ :: ls => KeepsSeq c op st ls
  | st, .pollsZero :: ls => KeepsSeq c op st ls

/-- An error of the bus phase never leaves `ST` at Initializing: INIT goes to Fault (R138). -/
theorem State.raiseIn_st_ne_initializing {s : State} {op : OpName} {e : Err} (hfit : stFits op s.st) (hb : busPhase e = true) :
    (s.raiseIn op e).st ≠ .initializing := by
  rw [State.raiseIn_st, hb]
  cases op <;> simp_all [isPanelOp, stFits]

theorem KeepsSeq.of_next {c : Cfg} {op : OpName} {l : Line} {ls : List Line} {s t : State} (h : KeepsSeq c op s.st (l :: ls))
    (hl : runLine l s = .next t) : KeepsSeq c op t.st ls := by
  rcases runLine_next hl with ⟨v, rfl, rfl⟩ | ⟨v, rfl, rfl⟩ | ⟨rfl, rfl⟩ | ⟨rfl, rfl⟩ | ⟨o, k, rfl, -, rfl⟩ | ⟨m, rfl, rfl⟩ |
    ⟨rfl, rfl⟩ | ⟨rfl, -, rfl⟩ | ⟨st, rfl, rfl⟩
  · exact h
  · exact h
  · exact h
  · exact h
  · obtain ⟨-, hls⟩ := h
    exact hls
  · exact h
  · exact h
  · obtain ⟨-, -, hls⟩ := h
    exact hls
  · exact h

theorem KeepsSeq.of_raise {c : Cfg} {op : OpName} {l : Line} {ls : List Line} {s t : State} {e : Err}
    (h : KeepsSeq c op s.st (l :: ls)) (hl : runLine l s = .raise e t) : stFits op t.st := by
  rw [runLine_raise_st hl]
  rcases runLine_raise hl with ⟨o, k, rfl, -⟩ | ⟨rfl, -⟩ <;> exact h.1

theorem KeepsSeq.of_busy {c : Cfg} {op : OpName} {l : Line} {ls : List Line} {s t : State}
    (h : KeepsSeq c op s.st (l :: ls)) (hl : runLine l s = .busy t) : stFits op t.st ∧ afterWait c op = some ls := by
  rw [runLine_busy_st hl]
  obtain ⟨rfl, -⟩ := runLine_busy hl
  exact ⟨h.1, h.2.1⟩

theorem KeepsSeq.seqInv_advance {op : OpName} {ls : List Line} {s : State} (h : KeepsSeq s.cfg op s.st ls) :
    SeqInv (advance op ls s) := by
  refine advance_induction (P := fun ls u => KeepsSeq u.cfg op u.st ls) ?_ ?_ ?_ ?_ ls s h
  · exact fun u hu => hu
  · intro l ls u t hu hl
    rw [(LinesKeep.of_next hl).cfg]
    exact hu.of_next hl
  · exact fun l ls u e t hu hl => State.raiseIn_st_ne_initializing (hu.of_raise hl) (busPhase_of_raise hl)
  · intro l ls u t hu hl
    obtain ⟨hfit, hrest⟩ := hu.of_busy hl
    rw [← (LinesKeep.of_busy hl).cfg] at hrest
    exact ⟨hfit, ls, hrest, rfl⟩

/-- Bus lines in front of lines that keep SEQ and `ST` in step. -/
theorem KeepsSeq.bus {c : Cfg} {op : OpName} {st : St} {ls ms : List Line} (hfit : stFits op st)
    (hbus : ∀ l ∈ ls, l.isBus = true) (h : KeepsSeq c op st ms) : KeepsSeq c op st (ls ++ ms) := by
  induction ls with
  | nil => exact h
  | cons l ls ih =>
    obtain ⟨hl, hls⟩ := List.forall_mem_cons.mp hbus
    have hrest := ih hls
    cases l with
    | wr o k => exact ⟨hfit, hrest⟩
    | setDc | csAssert | csDeassert => exact hrest
    | setRst | delay | pollsZero | sample | setSt => cases hl

/-- A bus phase with nothing after it. -/
theorem KeepsSeq.bus_nil {c : Cfg} {op : OpName} {st : St} {ls : List Line} (hfit : stFits op st)
    (hbus : ∀ l ∈ ls, l.isBus = true) (hst : st ≠ .initializing) : KeepsSeq c op st ls :=
  List.append_nil ls ▸ KeepsSeq.bus (ms := []) hfit hbus hst

/-- What follows the poll loop of each operation that waits (R132, R133, R135 to R137). -/
theorem KeepsSeq.of_afterWait {c : Cfg} {op : OpName} {st : St} {rest : List Line} (hfit : stFits op st)
    (hrest : afterWait c op = some rest) : KeepsSeq c op st rest := by
  cases op with
  | waitUntilIdle => cases hrest; exact hfit
  | init => cases hrest; exact fun h => nomatch h
  | draw | draw2 | clear => cases hrest; cases hfit; exact fun h => nomatch h
  | sleep => cases hrest; exact .bus (ls := sendLines c c.opDeepSleep c.plDeepSleep) hfit (sendLines_isBus _ _ _) nofun
  | transfer | sendCommand | sendData | send | reset => cases hrest
  | packMono | getPixel | setPixel | packBichro | pixelCode => cases hrest

/-- One turn of the poll loop in front of what follows it (R133). -/
theorem KeepsSeq.poll {c : Cfg} {op : OpName} {st : St} {rest : List Line} (hfit : stFits op st)
    (hrest : afterWait c op = some rest) : KeepsSeq c op st (pollLines c ++ rest) := by
  rw [pollLines, List.append_assoc]
  exact .bus hfit (sendLines_isBus _ _ _) ⟨hfit, hrest, .of_afterWait hfit hrest⟩

/-- A wait in front of what follows its settle delay (R133). -/
theorem KeepsSeq.wait {c : Cfg} {op : OpName} {st : St} {ms : List Line} (hfit : stFits op st)
    (hrest : afterWait c op = some (.delay Config.tSettle :: ms)) : KeepsSeq c op st (waitLines c ++ ms) := by
  rw [waitLines, List.cons_append, List.append_assoc]
  exact KeepsSeq.poll hfit hrest

/-- The refresh sequence that ends DRAW, DRAW2 and CLEAR (R134). -/
theorem KeepsSeq.refresh {c : Cfg} {op : OpName} {st : St} (hfit : stFits op st)
    (hrest : afterWait c op = some [.delay Config.tSettle]) : KeepsSeq c op st (refreshLines c) := by
  have hwait := KeepsSeq.wait hfit hrest
  rw [List.append_nil] at hwait
  exact .bus hfit (sendLines_isBus _ _ _) hwait

/-- Every operation that is started outside Initializing keeps SEQ and `ST` in step. -/
theorem Runs.keepsSeq {s : State} {i : Instr} {op : OpName} {ls : List Line} (h : Runs s i op ls) (hst : s.st ≠ .initializing) :
    KeepsSeq s.cfg op s.st ls := by
  cases h with
  | transfer b => exact .bus_nil hst (transferLines_isBus _ _) hst
  | sendCommand opcode => exact .bus_nil hst (sendCommandLines_isBus _ _) hst
  | sendData b => exact .bus_nil hst (sendDataLines_isBus _ _) hst
  | send => exact .bus_nil hst (sendLines_isBus _ _ _) hst
  | reset => exact fun h => nomatch h
  | init =>
    have hwait : KeepsSeq s.cfg .init .initializing (waitLines s.cfg ++ [.setSt .ready]) := .wait rfl rfl
    exact KeepsSeq.bus (st := .initializing) rfl (tableLines_isBus _ _) hwait
  | waitUntilIdle => exact List.append_nil (waitLines s.cfg) ▸ KeepsSeq.wait (ms := []) hst rfl
  | sleep hready => exact .bus hready (sendLines_isBus _ _ _) (.wait hready rfl)
  | draw _ _ hop hready bytes =>
    rcases hop with rfl | rfl <;> exact .bus hready (sendLines_isBus _ _ _) (.refresh hready rfl)
  | clear _ _ hready plan n => exact .bus hready (planLines_isBus _ _ _) (.refresh hready rfl)

/-- Settles O50: the lines left of a running operation and the lines an instruction starts keep SEQ and `ST` in step, and what
runs no lines leaves `ST`. -/
theorem stepKeepsSequencerInvariant : Obligations.StepKeepsSequencerInvariant := by
  intro s t hinv h
  rcases step_cases h with ⟨op, ls, hs, rfl⟩ | ⟨-, -, rfl⟩ | ⟨hs, w, rest, i, -, -, hi⟩
  · obtain ⟨hfit, rest, hrest, rfl⟩ := hinv.of_running hs
    exact (KeepsSeq.poll hfit hrest).seqInv_advance
  · exact hinv
  · have hst := hinv.of_idle hs
    cases exec_startedAs hi with
    | gave v h => exact h ▸ hst
    | stored _ b bytes v h => exact h ▸ (by simpa using hst : (State.putBytes _ b bytes).st ≠ .initializing)
    | raised op e hb h => exact h ▸ (by simpa [hb] using hst : (State.raiseIn op e _).st ≠ .initializing)
    | ran op ls hr h => exact h ▸ (hr.keepsSeq hst).seqInv_advance

/-! ### RESET alone (R130, R131, R138) -/

/-- RESET started while SEQ is idle ends with `ST = Reset` (R131). -/
theorem st_of_exec_reset {s t : State} (h : exec .reset s = .next t) : t.st = .reset := by
  have hrun : exec .reset s = .next (advance .reset resetLines s) := State.whenIdle_of (idle_of_exec h)
  rw [hrun] at h
  cases h
  rfl

/-- In Sleeping and in Fault no instruction but RESET writes `ST`: those that would are not admitted (R130). -/
theorem exec_keeps_sleeping_fault {i : Instr} {s t : State} (hst : s.st = .sleeping ∨ s.st = .fault) (hi : i ≠ .reset)
    (h : exec i s = .next t) : t.st = s.st := by
  cases exec_startedAs h with
  | gave v h => exact h ▸ rfl
  | stored _ b bytes v h => exact h ▸ by simp
  | raised op e hb h => exact h ▸ by simp [hb]
  | ran op ls hr h =>
    subst h
    cases hr with
    | transfer b => exact advance_st_eq _ _ s rfl (isPlain_of_isBus (transferLines_isBus _ _))
    | sendCommand opcode => exact advance_st_eq _ _ s rfl (isPlain_of_isBus (sendCommandLines_isBus _ _))
    | sendData b => exact advance_st_eq _ _ s rfl (isPlain_of_isBus (sendDataLines_isBus _ _))
    | send => exact advance_st_eq _ _ s rfl (sendLines_isPlain _ _ _)
    | waitUntilIdle => exact advance_st_eq _ _ s rfl (waitLines_isPlain _)
    | reset => exact absurd rfl hi
    | init hneed | sleep hneed | draw _ _ _ hneed | clear _ _ hneed => simp [hneed] at hst

/-- The operation that runs in Sleeping or in Fault is a wait the host started (R23, R133). -/
theorem eq_waitUntilIdle_of_stFits {c : Cfg} {op : OpName} {st : St} {rest : List Line} (hst : st = .sleeping ∨ st = .fault)
    (hfit : stFits op st) (hrest : afterWait c op = some rest) : op = .waitUntilIdle := by
  cases op with
  | waitUntilIdle => rfl
  | init | draw | draw2 | clear | sleep => cases hfit; simp at hst
  | transfer | sendCommand | sendData | send | reset => cases hrest
  | packMono | getPixel | setPixel | packBichro | pixelCode => cases hrest

/-- Settles O25: a running operation is a wait, which leaves `ST`, and of the starts RESET alone writes it. -/
theorem onlyResetLeavesSleepingAndFault : Obligations.OnlyResetLeavesSleepingAndFault := by
  intro s t hinv hst h hne
  rcases step_cases h with ⟨op, ls, hs, rfl⟩ | ⟨-, -, rfl⟩ | ⟨hs, w, rest, i, hp, hd, hi⟩
  · obtain ⟨hfit, rest, hrest, rfl⟩ := hinv.of_running hs
    obtain rfl := eq_waitUntilIdle_of_stFits hst hfit hrest
    cases hrest
    have hplain : ∀ l ∈ pollLines s.cfg ++ [.delay 100], l.isPlain = true :=
      List.forall_mem_append.mpr ⟨pollLines_isPlain _, by simp [Line.isPlain]⟩
    exact absurd (advance_st_eq _ _ s rfl hplain) hne
  · exact absurd rfl hne
  · by_cases hreset : i = .reset
    · subst hreset
      exact ⟨st_of_exec_reset hi, w, rest, hs, hp, hd⟩
    · exact absurd (exec_keeps_sleeping_fault (s := { s with program := rest }) hst hreset hi) hne

/-- No instruction but RESET writes the latch of the reset line (R131). -/
theorem exec_rstL {i : Instr} {s t : State} (hi : i ≠ .reset) (h : exec i s = .next t) : t.rstL = s.rstL := by
  cases exec_startedAs h with
  | gave v h => exact h ▸ rfl
  | stored _ b bytes v h => exact h ▸ by simp
  | raised op e _ h => exact h ▸ by simp
  | ran op ls hr h => exact h ▸ advance_rstL op ls s (hr.setRst_not_mem hi)

/-- Settles O26: neither a poll loop nor what follows one drives the reset line, and of the starts RESET alone does. -/
theorem onlyResetDrivesResetLine : Obligations.OnlyResetDrivesResetLine := by
  intro s t hinv h hne
  rcases step_cases h with ⟨op, ls, hs, rfl⟩ | ⟨-, -, rfl⟩ | ⟨hs, w, rest, i, hp, hd, hi⟩
  · obtain ⟨-, rest, hrest, rfl⟩ := hinv.of_running hs
    have hnone : ∀ v, .setRst v ∉ pollLines s.cfg ++ rest := fun v hv =>
      (List.mem_append.mp hv).elim (setRst_not_mem_of_isPlain (pollLines_isPlain _) v) (setRst_not_mem_afterWait hrest v)
    exact absurd (advance_rstL op _ s hnone) hne
  · exact absurd rfl hne
  · by_cases hreset : i = .reset
    · subst hreset
      exact ⟨w, rest, hs, hp, hd⟩
    · exact absurd (exec_rstL hreset hi) hne

end Sys2Proof.Machine
end

section
/-! The pixel masks bit by bit (R5, R51, R192). -/

namespace Sys2Proof

/-- Column `x` is bit `7 - x % 8` of its byte (R5, R51). -/
theorem getLsbD_pixelMask (x k : Nat) : (pixelMask x).getLsbD k = decide (k = 7 - x % 8) := by
  have htop : (0x80#8 : Byte) = BitVec.twoPow 8 7 := rfl
  rw [pixelMask, htop, BitVec.getLsbD_ushiftRight, BitVec.getLsbD_twoPow]
  have hbit : 7 = x % 8 + k ↔ k = 7 - x % 8 := by omega
  simpa using hbit

/-- The mask SET_PIXEL clears a pixel with is the complement of the pixel's mask (R192). -/
theorem sub_pixelMask (x : Nat) : 0xFF#8 - pixelMask x = ~~~pixelMask x := BitVec.allOnes_sub_eq_not _

/-- Setting or clearing a pixel writes that pixel's bit alone (R192). -/
theorem getLsbD_putPixel (b : Byte) (x : Nat) (v : Bool) {k : Nat} (hk : k < 8) :
    (putPixel b x v).getLsbD k = if k = 7 - x % 8 then v else b.getLsbD k := by
  cases v with
  | true =>
    rw [putPixel, if_pos rfl, BitVec.getLsbD_or, getLsbD_pixelMask]
    by_cases h : k = 7 - x % 8 <;> simp [h]
  | false =>
    rw [putPixel, if_neg Bool.false_ne_true, sub_pixelMask, BitVec.getLsbD_and, BitVec.getLsbD_not, getLsbD_pixelMask]
    by_cases h : k = 7 - x % 8 <;> simp [h, hk]

end Sys2Proof
end

section
/-! The host's buffers byte by byte, the errors raised before the bus phase, and what SET_PIXEL can do to a host buffer (R50, R59,
R192, R222). -/

namespace Sys2Proof.Machine

/-! ### One byte of a host buffer stored (R7, R59) -/

/-- The byte that was stored is the one read back. -/
theorem State.bufferByte?_of_stored_same {s t : State} {id i : Nat} {new : Byte} (hinv : BuffersInv s)
    (hi : i < (readBuffers s.bufs id).length) (ht : t.bufs = writeBuffers s.bufs id (storeByte (readBuffers s.bufs id) i new)) :
    t.bufferByte? id i = some new := by
  rw [State.bufferByte?, ht, readBuffers_writeBuffers 0 id _ _ hinv, storeByte, List.getElem?_set_self hi]

/-- Every other byte, of that buffer or another, reads as before. -/
theorem State.bufferByte?_of_stored_ne {s t : State} {id i id' j : Nat} {new : Byte} (hinv : BuffersInv s)
    (hne : id' ≠ id ∨ j ≠ i) (ht : t.bufs = writeBuffers s.bufs id (storeByte (readBuffers s.bufs id) i new)) :
    t.bufferByte? id' j = s.bufferByte? id' j := by
  rw [State.bufferByte?, State.bufferByte?, ht]
  by_cases hid : id' = id
  · subst hid
    have hj : i ≠ j := fun h => hne.elim (absurd rfl) (absurd h.symm)
    rw [readBuffers_writeBuffers 0 id' _ _ hinv, storeByte, List.getElem?_set_ne hj]
  · rw [readBuffers_writeBuffers_of_ne id id' _ hid]

/-! ### Errors raised before the bus phase (R222, R227) -/

/-- An error that is none of the bus phase leaves the controller as it was (R138, R227). -/
theorem SameController.raiseIn {s : State} {e : Err} (hs : s.seq = .idle) (hb : busPhase e = false) (op : OpName) :
    SameController s (s.raiseIn op e) := by
  have hne : ∀ o k r, e ≠ .transport o k r := by
    rintro o k r rfl
    cases hb
  exact ⟨by simp, by simp [hb], by simp, s.raiseIn_csL_of_ne op e hne, by simp, hs.symm, by simp, by simp, by simp, by simp,
    by simp, s.raiseIn_free_of_ne op e hne, by simp⟩

/-- What the host sees of an instruction that raises such an error: the error returned, and nothing else changed. -/
theorem raised_of_exec {i : Instr} {s : State} {op : OpName} {e : Err} (hs : s.seq = .idle) (hb : busPhase e = false)
    (h : exec i s = .next (s.raiseIn op e)) :
    ∃ t, exec i s = .next t ∧ t.returns = s.returns ++ [.error e] ∧ SameController s t ∧ t.bufs = s.bufs :=
  ⟨_, h, s.raiseIn_returns op e, .raiseIn hs hb op, s.raiseIn_bufs op e⟩

@[simp] theorem length_zeroPlane (c : Cfg) : c.zeroPlane.length = c.planeLen := List.length_replicate

/-- Planes of different lengths are compared with each other before anything else (R163). -/
theorem drawPlanes_of_length_ne {op : OpName} {b k : List Byte} {s : State} (h : b.length ≠ k.length) :
    drawPlanes op b k s = .next (s.raiseIn op (.invalidBufferSize b.length k.length)) :=
  State.checkLen_of_ne h

/-- Planes of one length, but not of PLANE_LEN (R163). -/
theorem drawPlanes_of_length_ne_planeLen {op : OpName} {b k : List Byte} {s : State} (heq : b.length = k.length)
    (hne : b.length ≠ s.cfg.planeLen) :
    drawPlanes op b k s = .next (s.raiseIn op (.invalidBufferSize b.length s.cfg.planeLen)) :=
  (State.checkLen_of heq).trans (State.checkLen_of_ne hne)

/-! ### SET_PIXEL on a host buffer (R192) -/

theorem outside_eq_false {x y : Int} {w h : Nat} : outside x y w h = false ↔ 0 ≤ x ∧ 0 ≤ y ∧ x < w ∧ y < h := by
  simp [outside, and_assoc]

/-- A stored surface pixel: the byte was there, and the operand's new content is in place (R192, R198). -/
theorem putSurfacePixel_next {buf : Buf} {bytes : List Byte} {i x : Nat} {v : Bool} {s t : State}
    (h : putSurfacePixel buf bytes i x v s = .next t) :
    ∃ old, bytes[i]? = some old ∧ t.bufs = (s.putBytes buf (storeByte bytes i (putPixel old x v))).bufs := by
  unfold putSurfacePixel at h
  split at h
  · cases h
  · cases h
    exact ⟨_, ‹_›, rfl⟩

/-- SET_PIXEL leaves the host's buffers where the coordinates lie outside; else it stores the pixel's byte at the index of the
Surface formula (R52, R192). -/
theorem exec_setPixel_ref_cases {id : Nat} {x y : Int} {v : Bool} {s t : State}
    (h : exec (.setPixel (.ref id) x y v) s = .next t) :
    (outside x y s.cfg.w s.cfg.h = true ∧ t.bufs = s.bufs) ∨
    ∃ old, s.bufferByte? id (s.cfg.surfaceIndex x.toNat y.toNat) = some old ∧
      t.bufs = writeBuffers s.bufs id
        (storeByte (readBuffers s.bufs id) (s.cfg.surfaceIndex x.toNat y.toNat) (putPixel old x.toNat v)) := by
  have hs := idle_of_exec h
  rw [exec, execSetPixel, State.whenIdle_of hs] at h
  split at h
  · cases h
  · split at h
    · rename_i hneg
      cases h
      exact .inl ⟨by rcases hneg with hx | hy <;> simp [outside, *], rfl⟩
    · split at h
      · cases h
        exact .inl ⟨‹_›, by simp⟩
      · exact .inr (putSurfacePixel_next h)

end Sys2Proof.Machine
end

section
/-! The settled statements on the host's memory (20_memory.md; R50, R52, R58, R59, R192, R222, R226). -/

namespace Sys2Proof.Machine

/-- Settles O33: each row's length check is its first check past the variant, and InvalidBufferSize is no error of the bus
phase. -/
theorem sizeErrorsBeforeTheBus : Obligations.SizeErrorsBeforeTheBus := by
  intro s hs
  refine ⟨fun b hv hne => ?_, fun b hv hne => ?_, fun b k hv hne => ?_, fun b k hv heq hne => ?_, fun b k hne => ?_,
    fun b x y hne => ?_⟩
  · refine raised_of_exec (op := .draw) hs rfl ?_
    rw [exec, execMonoDraw, State.whenIdle_of hs, State.onVariant_of hv, State.checkLen_of_ne hne]
  · refine raised_of_exec (op := .draw) hs rfl ?_
    rw [← length_zeroPlane] at hne ⊢
    rw [exec, execBichroDraw, State.whenIdle_of hs, State.onVariant_of hv, drawPlanes_of_length_ne hne]
  · refine raised_of_exec (op := .draw2) hs rfl ?_
    rw [exec, execDraw2, State.whenIdle_of hs, State.onVariant_of hv, drawPlanes_of_length_ne hne]
  · refine raised_of_exec (op := .draw2) hs rfl ?_
    rw [exec, execDraw2, State.whenIdle_of hs, State.onVariant_of hv, drawPlanes_of_length_ne_planeLen heq hne]
  · refine raised_of_exec (op := .packBichro) hs rfl ?_
    rw [exec, execPackBichro, State.whenIdle_of hs, State.checkLen_of_ne hne]
  · refine raised_of_exec (op := .getPixel) hs rfl ?_
    rw [exec, execGetPixel, State.whenIdle_of hs, State.checkLen_of_ne hne]

/-- Settles O54: an operand stored in place keeps the canonical form, and nothing else writes the buffers. -/
theorem stepKeepsBuffers : Obligations.StepKeepsBuffers := by
  intro s t hinv h
  unfold BuffersInv at hinv ⊢
  rcases step_cases h with ⟨op, ls, -, rfl⟩ | ⟨-, -, rfl⟩ | ⟨-, w, rest, i, -, -, hi⟩
  · rwa [advance_bufs]
  · exact hinv
  · cases exec_startedAs hi with
    | gave v h => exact h ▸ hinv
    | stored _ b bytes v h => exact h ▸ State.putBytes_wf _ b bytes hinv
    | raised op e _ h => rwa [h, State.raiseIn_bufs]
    | ran op ls _ h => rwa [h, advance_bufs]

/-- Settles O58: SET_PIXEL leaves the buffers or stores one byte of one, in which the pixel's bit alone is written. -/
theorem setPixelMemoryFrame : Obligations.SetPixelMemoryFrame := by
  intro s t id x y v hinv h
  rcases exec_setPixel_ref_cases h with ⟨hout, hbufs⟩ | ⟨old, hold, hbufs⟩
  · refine ⟨fun id' i _ => by rw [State.bufferByte?, State.bufferByte?, hbufs], fun _ hx hy hxw hyh _ => ?_⟩
    rw [outside_eq_false.mpr ⟨hx, hy, hxw, hyh⟩] at hout
    cases hout
  · refine ⟨fun id' i hne => State.bufferByte?_of_stored_ne hinv hne hbufs, fun old' _ _ _ _ hold' => ?_⟩
    obtain rfl : old = old' := Option.some.inj (hold.symm.trans hold')
    obtain ⟨hi, -⟩ := List.getElem?_eq_some_iff.mp hold
    exact ⟨_, State.bufferByte?_of_stored_same hinv hi hbufs, fun k hk => getLsbD_putPixel old x.toNat v hk⟩

end Sys2Proof.Machine
end

section
/-! A byte as its pixels and as its pixel codes: packing and unpacking eight pixels, the two codes of a frame byte (R5, R87, R88,
R89). -/

namespace Sys2Proof

/-! ### Eight pixels in one byte (R5, R87) -/

theorem pixelMask_eq_twoPow (x : Nat) : pixelMask x = BitVec.twoPow 8 (7 - x % 8) := by
  refine BitVec.eq_of_getLsbD_eq fun k hk => ?_
  rw [getLsbD_pixelMask, BitVec.getLsbD_twoPow, Bool.eq_iff_iff]
  simp only [Bool.and_eq_true, decide_eq_true_eq]
  omega

/-- A pixel is set where its bit is (R51, R191). -/
theorem pixelSet_eq_getLsbD (b : Byte) (x : Nat) : pixelSet b x = b.getLsbD (7 - x % 8) := by
  have hbit : (BitVec.twoPow 8 (7 - x % 8)).getLsbD (7 - x % 8) = true := by
    rw [← pixelMask_eq_twoPow, getLsbD_pixelMask, decide_eq_true rfl]
  rw [pixelSet, pixelMask_eq_twoPow, BitVec.and_twoPow]
  by_cases h : b.getLsbD (7 - x % 8) = true
  · have hne : BitVec.twoPow 8 (7 - x % 8) ≠ 0#8 := fun h0 => by simp [h0] at hbit
    simp [h, hne]
  · simp [h]

/-- Packing some pixels sets their bits and no other (R87, R190). -/
theorem getLsbD_foldl_pixelMask (f : Nat → Bool) (ks : List Nat) (v : Byte) (j : Nat) :
    (ks.foldl (fun v k => if f k then v ||| pixelMask k else v) v).getLsbD j =
      (v.getLsbD j || ks.any fun k => f k && (pixelMask k).getLsbD j) := by
  induction ks generalizing v with
  | nil => simp
  | cons k ks ih =>
    rw [List.foldl_cons, ih]
    by_cases hk : f k = true <;> simp [hk, Bool.or_assoc]

/-- Pixel `k` of a packed byte is bit `7 - k` (R87). -/
theorem getLsbD_packByte (f : Nat → Bool) {j : Nat} (hj : j < 8) : (packByte f).getLsbD j = f (7 - j) := by
  rw [packByte, getLsbD_foldl_pixelMask, Bool.eq_iff_iff]
  simp only [BitVec.getLsbD_zero, Bool.false_or, List.any_eq_true, List.mem_range, Bool.and_eq_true, getLsbD_pixelMask,
    decide_eq_true_eq]
  constructor
  · rintro ⟨k, hk, hf, rfl⟩
    rwa [show 7 - (7 - k % 8) = k by omega]
  · exact fun hf => ⟨7 - j, by omega, hf, by omega⟩

/-- Unpacking a packed byte gives the pixels back (R87). -/
theorem pixelSet_packByte (f : Nat → Bool) {k : Nat} (hk : k < 8) : pixelSet (packByte f) k = f k := by
  rw [pixelSet_eq_getLsbD, getLsbD_packByte f (by omega)]
  congr 1
  omega

theorem packByte_congr {f g : Nat → Bool} (h : ∀ k, k < 8 → f k = g k) : packByte f = packByte g := by
  refine BitVec.eq_of_getLsbD_eq fun j hj => ?_
  rw [getLsbD_packByte f hj, getLsbD_packByte g hj, h _ (by omega)]

/-- Packing the pixels of a byte gives the byte back (R87). -/
theorem packByte_pixelSet (b : Byte) : packByte (pixelSet b) = b := by
  refine BitVec.eq_of_getLsbD_eq fun j hj => ?_
  rw [getLsbD_packByte _ hj, pixelSet_eq_getLsbD]
  congr 1
  omega

/-- Pixel `a` is the leftmost one, bit 7, and `h` the rightmost, bit 0 (R87). -/
theorem getLsbD_monoByteOf (a b c d e f g h : Bool) {j : Nat} (hj : j < 8) :
    (monoByteOf a b c d e f g h).getLsbD j = [a, b, c, d, e, f, g, h].getD (7 - j) false :=
  getLsbD_packByte _ hj

theorem decodeMonoByte_monoByteOf (a b c d e f g h : Bool) :
    decodeMonoByte (monoByteOf a b c d e f g h) = .monoByte a b c d e f g h := by
  simp [decodeMonoByte, monoByteOf, pixelSet_packByte]

theorem monoByteOf_pixelSet (b : Byte) :
    monoByteOf (pixelSet b 0) (pixelSet b 1) (pixelSet b 2) (pixelSet b 3) (pixelSet b 4) (pixelSet b 5) (pixelSet b 6)
      (pixelSet b 7) = b := by
  refine (packByte_congr fun k hk => ?_).trans (packByte_pixelSet b)
  change ((List.range 8).map (pixelSet b)).getD k false = pixelSet b k
  simp [hk]

/-! ### The pixel codes and the two of a frame byte (R88, R89) -/

/-- The codes, lowest value first (R88). -/
def pixelCodes : List PixelCode := [.black, .white, .color]

theorem mem_pixelCodes (p : PixelCode) : p ∈ pixelCodes := by cases p <;> decide

theorem decodeNibble_eq_some {n : Nibble} {p : PixelCode} : decodeNibble n = some p ↔ p.nibble = n := by
  constructor
  · intro h
    unfold decodeNibble at h
    split_ifs at h <;> cases h <;> exact (‹n = _›).symm
  · rintro rfl
    cases p <;> rfl

theorem decodeNibble_nibble (p : PixelCode) : decodeNibble p.nibble = some p := decodeNibble_eq_some.mpr rfl

/-- A nibble that is no code is refused (R90). -/
theorem decodeNibble_eq_none {n : Nibble} : decodeNibble n = none ↔ n ∉ pixelCodes.map PixelCode.nibble := by
  simp only [Option.eq_none_iff_forall_ne_some, ne_eq, decodeNibble_eq_some, List.mem_map, mem_pixelCodes, true_and, not_exists]

/-- The left code is the high nibble and the right code the low one (R89). -/
theorem frameByteOf_eq_append (l r : PixelCode) : frameByteOf l r = l.nibble ++ r.nibble := by
  refine BitVec.eq_of_getLsbD_eq fun j hj => ?_
  rw [frameByteOf, BitVec.getLsbD_or, BitVec.getLsbD_shiftLeft, BitVec.getLsbD_append]
  by_cases h : j < 4
  · simp [h, hj]
  · have hlow : r.nibble.getLsbD j = false := BitVec.getLsbD_of_ge _ _ (by omega)
    simp [h, hj, hlow, show j - 4 < 8 by omega]

theorem extractLsb'_high_frameByteOf (l r : PixelCode) : (frameByteOf l r).extractLsb' 4 4 = l.nibble := by
  rw [frameByteOf_eq_append, BitVec.extractLsb'_append_eq_left]

theorem extractLsb'_low_frameByteOf (l r : PixelCode) : (frameByteOf l r).extractLsb' 0 4 = r.nibble := by
  rw [frameByteOf_eq_append, BitVec.extractLsb'_append_eq_of_add_le (by decide), BitVec.extractLsb'_eq_self]

/-- A byte is its high nibble and its low one. -/
theorem append_extractLsb' (b : Byte) : b.extractLsb' 4 4 ++ b.extractLsb' 0 4 = b :=
  (BitVec.extractLsb'_append_extractLsb'_eq_extractLsb' rfl).trans BitVec.extractLsb'_eq_self

/-- The nine bytes of R89, rows by left code. -/
theorem frameBytes_eq : (pixelCodes.flatMap fun l => pixelCodes.map (frameByteOf l)) =
    [0x00#8, 0x03#8, 0x04#8, 0x30#8, 0x33#8, 0x34#8, 0x40#8, 0x43#8, 0x44#8] := rfl

theorem mem_frameBytes {x : Byte} :
    x ∈ [0x00#8, 0x03#8, 0x04#8, 0x30#8, 0x33#8, 0x34#8, 0x40#8, 0x43#8, 0x44#8] ↔ ∃ l r : PixelCode, frameByteOf l r = x := by
  simp only [← frameBytes_eq, List.mem_flatMap, List.mem_map, mem_pixelCodes, true_and]

/-- A byte decodes as a frame byte exactly where it is the byte of two codes (R89, R90). -/
theorem decodeFrameByte_eq_some {b : Byte} {i : Instr} :
    decodeFrameByte b = some i ↔ ∃ l r, i = .frameByte l r ∧ frameByteOf l r = b := by
  constructor
  · intro h
    unfold decodeFrameByte at h
    split at h
    · rename_i l r hl hr
      cases h
      exact ⟨l, r, rfl, by
        rw [frameByteOf_eq_append, decodeNibble_eq_some.mp hl, decodeNibble_eq_some.mp hr, append_extractLsb']⟩
    · cases h
  · rintro ⟨l, r, rfl, rfl⟩
    simp only [decodeFrameByte, extractLsb'_high_frameByteOf, extractLsb'_low_frameByteOf, decodeNibble_nibble]

/-- A byte that is not the byte of two codes is refused (R90). -/
theorem decodeFrameByte_eq_none {b : Byte} : decodeFrameByte b = none ↔ ¬∃ l r, frameByteOf l r = b := by
  simp only [Option.eq_none_iff_forall_ne_some, ne_eq, decodeFrameByte_eq_some]
  exact ⟨fun h ⟨l, r, hb⟩ => h _ ⟨l, r, rfl, hb⟩, fun h _ ⟨l, r, _, hb⟩ => h ⟨l, r, hb⟩⟩

end Sys2Proof
end

section
/-! The decoder and the encoder undo each other, channel by channel (R81, R86). -/

namespace Sys2Proof

/-! ### Host operations (R81) -/

theorem selectorOf_opselOf (sel : HostSel) : selectorOf (opselOf sel) = some sel := by cases sel <;> rfl

theorem opselOf_of_selectorOf {b : Byte} {sel : HostSel} (h : selectorOf b = some sel) : opselOf sel = b :=
  eq_of_beq (List.find?_some (p := fun h => opselOf h == b) h)

/-- A selector outside R81's table names no operation (R91). -/
theorem selectorOf_eq_none {b : Byte} : selectorOf b = none ↔ b ∉ hostSels.map opselOf := by
  simp [selectorOf]

theorem decode_hostOp {c : Cfg} {sel : HostSel} {ops : List Operand} {i : Instr}
    (h : decodeOperands c.variant sel ops = some i) : decode c (hostOp sel ops) = .ok i := by
  simp only [hostOp, decode, selectorOf_opselOf, h]

/-- The operands a selector takes are the ones its row is encoded with; DRAW and CLEAR are one form on either variant (R81, R92). -/
theorem encode_of_decodeOperands {c : Cfg} {v : Variant} {sel : HostSel} {ops : List Operand} {i : Instr}
    (h : decodeOperands v sel ops = some i) : encode c i = hostOp sel ops := by
  unfold decodeOperands at h
  split at h <;> cases h
  case h_8 | h_9 => cases v <;> rfl
  all_goals rfl

/-! ### Wire commands (R86) -/

/-- A key that stands once among the keys of a list is found with its own entry. -/
theorem find?_of_distinctBytes {α : Type} {rows : List (Byte × α)} (hd : distinctBytes (rows.map Prod.fst) = true)
    {row : Byte × α} (h : row ∈ rows) : (rows.find? fun r => r.1 == row.1) = some row := by
  induction rows with
  | nil => cases h
  | cons r rows ih =>
    rw [List.map_cons, distinctBytes, Bool.and_eq_true] at hd
    obtain ⟨hfresh, hrest⟩ := hd
    rcases List.mem_cons.mp h with rfl | h
    · simp
    · have hne : (r.1 == row.1) = false := by
        refine beq_false_of_ne fun heq => ?_
        simp [heq, List.mem_map_of_mem h] at hfresh
      rw [List.find?_cons_of_neg (by simp [hne]), ih hrest h]

theorem decode_wirecmd {c : Cfg} (hd : c.opcodesDistinct = true) {opcode : Byte} {f : List Byte → Instr}
    (h : (opcode, f) ∈ commandTable c) (payload : List Byte) : decode c (.wirecmd opcode payload) = .ok (f payload) := by
  have hfind := find?_of_distinctBytes (rows := commandTable c) hd h
  simp only [decode, decodeCommand, hfind, Option.map_some]

theorem encode_of_mem_commandTable {c : Cfg} {row : Byte × (List Byte → Instr)} (h : row ∈ commandTable c) (payload : List Byte) :
    encode c (row.2 payload) = .wirecmd row.1 payload := by
  revert row
  simp [commandTable, encode]

theorem encode_of_decodeCommand {c : Cfg} {opcode : Byte} {payload : List Byte} {i : Instr}
    (h : decodeCommand c opcode payload = some i) : encode c i = .wirecmd opcode payload := by
  obtain ⟨row, hfind, rfl⟩ := Option.map_eq_some_iff.mp h
  have hop : row.1 = opcode := eq_of_beq (List.find?_some (p := fun r : Byte × (List Byte → Instr) => r.1 == opcode) hfind)
  rw [encode_of_mem_commandTable (List.mem_of_find?_eq_some hfind), hop]

/-- An opcode outside the command table names no wire command (R86). -/
theorem decodeCommand_eq_none {c : Cfg} {opcode : Byte} {payload : List Byte} :
    decodeCommand c opcode payload = none ↔ opcode ∉ c.opcodes := by
  have hrows : c.opcodes = (commandTable c).map Prod.fst := rfl
  rw [decodeCommand, Option.map_eq_none_iff, List.find?_eq_none, hrows]
  simp only [List.mem_map, beq_iff_eq, not_exists, not_and]

/-! ### Pixel encodings (R87 to R89) -/

theorem decode_nibble (c : Cfg) (p : PixelCode) : decode c (.nibble p.nibble) = .ok (pixelInstr p) := by
  simp only [decode, decodeNibble_nibble]

theorem encode_pixelInstr (c : Cfg) (p : PixelCode) : encode c (pixelInstr p) = .nibble p.nibble := by
  cases p <;> rfl

end Sys2Proof
end

section
/-! The chunks of a transfer one by one, and what the host's policy makes of its program when an operation returns (R92, R110). -/

namespace Sys2Proof.Machine

/-- A chunk of a transfer holds 1 to `CHUNK` bytes (R110). -/
theorem length_of_mem_chunksOf {n : Nat} {bytes k : List Byte} (h : k ∈ chunksOf n bytes) : 1 ≤ k.length ∧ k.length ≤ n := by
  obtain ⟨j, hj, rfl⟩ := List.mem_map.mp h
  have hpos : 0 < n := Nat.pos_of_ne_zero fun h0 => by simp [h0, writesOf] at hj
  have hlt : (j + 1) * n ≤ bytes.length + n - 1 := (Nat.le_div_iff_mul_le hpos).mp (List.mem_range.mp hj)
  rw [Nat.succ_mul] at hlt
  rw [List.length_take, List.length_drop]
  omega

theorem length_chunksOf (n : Nat) (bytes : List Byte) : (chunksOf n bytes).length = writesOf n bytes := by
  simp [chunksOf]

/-! ### The rest of the program after an error (R92) -/

/-- Where `t` has an error returned that `s` had not, the host's policy decides on the program; else the program is as it was. -/
def ProgramFollowsPolicy (s t : State) : Prop :=
  ((∃ e, t.returns = s.returns ++ [.error e]) → t.program = if s.onError = .stop then [] else s.program) ∧
  ((¬∃ e, t.returns = s.returns ++ [.error e]) → t.program = s.program)

theorem ProgramFollowsPolicy.of_keep {s t : State} (hprog : t.program = s.program)
    (hret : t.returns = s.returns ∨ ∃ v, t.returns = s.returns ++ [.ok v]) : ProgramFollowsPolicy s t := by
  refine ⟨?_, fun _ => hprog⟩
  rintro ⟨e, he⟩
  rw [he] at hret
  simp at hret

theorem ProgramFollowsPolicy.of_raiseIn {s u : State} (hret : u.returns = s.returns) (hpolicy : u.onError = s.onError)
    (hprog : u.program = s.program) (op : OpName) (e : Err) : ProgramFollowsPolicy s (u.raiseIn op e) := by
  have herr : ∃ e', (u.raiseIn op e).returns = s.returns ++ [.error e'] := ⟨e, by rw [State.raiseIn_returns, hret]⟩
  exact ⟨fun _ => by rw [State.raiseIn_program, hpolicy, hprog], fun h => absurd herr h⟩

theorem ProgramFollowsPolicy.advance (op : OpName) (ls : List Line) (s : State) :
    ProgramFollowsPolicy s (advance op ls s) := by
  obtain ⟨u, hu, h | ⟨e, -, h⟩ | ⟨_, _, -, -, -, h⟩⟩ := advance_cases op ls s <;> rw [h]
  · exact .of_keep hu.program (.inr ⟨.unit, by rw [State.finish_returns, hu.returns]⟩)
  · exact .of_raiseIn hu.returns hu.onError hu.program op e
  · exact .of_keep hu.program (.inl hu.returns)

theorem ProgramFollowsPolicy.exec {i : Instr} {s t : State} (h : exec i s = .next t) : ProgramFollowsPolicy s t := by
  cases exec_startedAs h with
  | gave v h => exact h ▸ .of_keep rfl (.inr ⟨v, rfl⟩)
  | stored _ b bytes v h => exact h ▸ .of_keep (by simp) (.inr ⟨v, by simp⟩)
  | raised op e _ h => exact h ▸ .of_raiseIn rfl rfl rfl op e
  | ran op ls _ h => exact h ▸ .advance op ls s

end Sys2Proof.Machine
end

section
/-! The settled statements on the encodings and on what the encoded forms do (30_encoding.md). -/

namespace Sys2Proof.Machine

/-- Settles O4: each channel's decoder reads its own rows back; the rows that share a selector are told apart by the variant, and
the wire commands by their distinct opcodes. -/
theorem decodeOfEncode : Obligations.DecodeOfEncode := by
  intro c i hd hwf
  cases i with
  | transfer | sendCommand | sendData | send => exact decode_hostOp rfl
  | reset | init | waitUntilIdle | sleep | draw2 => exact decode_hostOp rfl
  | packMono | getPixel | setPixel | packBichro => exact decode_hostOp rfl
  | monoDraw | monoClear | bichroDraw | bichroClear =>
    have hv := of_decide_eq_true hwf
    exact decode_hostOp (by rw [hv]; rfl)
  | powerSetting | panelSetting | pllControl | vcomDataInterval | boosterSoftStart | tconResolution =>
    exact decode_wirecmd hd (by simp [commandTable]) _
  | dataStart | dataStart2 | displayRefresh | powerOff | deepSleep | getStatus =>
    exact decode_wirecmd hd (by simp [commandTable]) _
  | pixelBlack => exact decode_nibble c .black
  | pixelWhite => exact decode_nibble c .white
  | pixelColor => exact decode_nibble c .color
  | frameByte l r => simp only [encode, decode, decodeFrameByte_eq_some.mpr ⟨l, r, rfl, rfl⟩]
  | monoByte => simp only [encode, decode, decodeMonoByte_monoByteOf]

/-- Settles O5: what a channel's decoder reads is encoded as the bits it was read from. -/
theorem encodeOfDecode : Obligations.EncodeOfDecode := by
  intro c e i h
  cases e with
  | hostop opsel ops =>
    simp only [decode] at h
    split at h
    · cases h
    · split at h <;> cases h
      rename_i sel hsel _ hops
      rw [encode_of_decodeOperands hops, hostOp, opselOf_of_selectorOf hsel]
  | wirecmd opcode payload =>
    simp only [decode] at h
    split at h <;> cases h
    exact encode_of_decodeCommand ‹_›
  | nibble n =>
    simp only [decode] at h
    split at h <;> cases h
    rw [encode_pixelInstr, decodeNibble_eq_some.mp ‹_›]
  | framebyte b =>
    simp only [decode] at h
    split at h <;> cases h
    obtain ⟨l, r, rfl, rfl⟩ := decodeFrameByte_eq_some.mp ‹_›
    rfl
  | monobyte b =>
    cases h
    exact congrArg Encoded.monobyte (monoByteOf_pixelSet b)

/-- Settles O6: each channel's decoder refuses by name what is in no row, and the step refuses what does not decode. -/
theorem unlistedEncodingsRefused : Obligations.UnlistedEncodingsRefused := by
  intro s rest hs
  have hrefuse : ∀ w e, decode s.cfg w = .error e → s.program = w :: rest → step s = .refused (.undecodable e) :=
    fun w e hd hp => stepRunsDecodedInstruction.2.1 s w rest e hs hp hd
  refine ⟨fun b ops hb => hrefuse _ _ ?_, fun b pl hb => hrefuse _ _ ?_, fun n hn => hrefuse _ _ ?_,
    fun b hb => hrefuse _ _ ?_⟩
  · simp only [decode, selectorOf_eq_none.mpr hb]
  · simp only [decode, decodeCommand_eq_none.mpr hb]
  · simp only [decode, decodeNibble_eq_none.mpr hn]
  · simp only [decode, decodeFrameByte_eq_none.mpr (mem_frameBytes.not.mp hb)]

/-- Settles O3: each word is decoded by evaluation. -/
theorem sampleWordsDecode : Obligations.SampleWordsDecode :=
  ⟨rfl, rfl, rfl, rfl, rfl, rfl, rfl, rfl⟩

/-- Settles O44: the nine bytes are the frame bytes of the three codes with the three codes. -/
theorem frameByteValues : Obligations.FrameByteValues :=
  ⟨frameByteOf_eq_append, fun _ => mem_frameBytes.symm⟩

/-- Settles O41: a pixel encoding gives its byte back, whose bits are those of the table. -/
theorem pixelEncodingsComplete : Obligations.PixelEncodingsComplete := by
  intro s hs
  refine ⟨State.whenIdle_of hs, State.whenIdle_of hs, State.whenIdle_of hs, fun l r => ?_, fun a b c d e f g h => ?_⟩
  · exact ⟨frameByteOf l r, State.whenIdle_of hs, extractLsb'_high_frameByteOf l r, extractLsb'_low_frameByteOf l r⟩
  · refine ⟨monoByteOf a b c d e f g h, State.whenIdle_of hs, ?_⟩
    and_intros <;> exact getLsbD_monoByteOf a b c d e f g h (by decide)

/-- Settles O8: SEND_COMMAND runs the lines of one command, and the trace of one command is one frame. -/
theorem sendCommandCompletes : Obligations.SendCommandCompletes := by
  intro s opcode hs hc hf
  have hrun := advance_command .sendCommand s.cfg opcode [] s rfl hc hf
  rw [List.append_nil] at hrun
  have hexec : exec (.sendCommand opcode) s = s.launch .sendCommand (sendCommandLines s.cfg opcode) := State.whenIdle_of hs
  rw [hexec, State.launch_of hc, hrun]
  exact ⟨rfl, framesAt_commandTrace none opcode []⟩

/-- Settles O9: the chunks are those of the transfer SEND_DATA runs, and put together they are the payload. -/
theorem sendDataCompletes : Obligations.SendDataCompletes := by
  intro s b hs hc hf
  have hframe := framesAt_transferTrace s.cfg hc (some 1#1) (s.bytesOf b) []
  rw [List.append_nil] at hframe
  refine ⟨chunksOf s.cfg.chunk (s.bytesOf b), chunksOf_flatten _ hc _, fun k => length_of_mem_chunksOf, length_chunksOf _ _,
    ?_, hframe⟩
  have hrun := advance_data .sendData s.cfg (s.bytesOf b) [] s rfl hc hf
  rw [List.append_nil] at hrun
  have hexec : exec (.sendData b) s = s.launch .sendData (sendDataLines s.cfg (s.bytesOf b)) := State.whenIdle_of hs
  rw [hexec, State.launch_of hc, hrun]
  by_cases he : elided s.cfg (s.bytesOf b) = true
  · rw [if_pos he, if_pos (elided_iff.mp he)]
    rfl
  · rw [if_neg he, if_neg (mt elided_iff.mpr he), dataTrace, if_neg he]
    rfl

/-- Settles O11: each wire command is the raw SEND of its own opcode (R85). -/
theorem wireCommandsComplete : Obligations.WireCommandsComplete := by
  intro s pl hs hc hf
  have hsent : ∀ opcode, wireCommand opcode pl s =
      .next ((s.sentOn (sendTrace s.cfg opcode pl) (sendWrites s.cfg pl) 0 pl).returnedOk .unit) :=
    fun opcode => (State.whenIdle_of hs).trans (s.launch_send opcode pl hc hf)
  exact ⟨hsent _, hsent _, hsent _, hsent _, hsent _, hsent _, hsent _, hsent _, hsent _, hsent _, hsent _, hsent _⟩

/-- Settles O57: the start of an operation and a later turn of one alike return through `finish`, which applies the policy. -/
theorem hostStopsAtError : Obligations.HostStopsAtError := by
  refine ⟨fun s t w rest hs hp h => ?_, fun s t op ls hs h => ?_⟩
  · rcases step_cases h with ⟨op, ls, hrun, -⟩ | ⟨-, hnone, -⟩ | ⟨-, w', rest', i, hp', -, hi⟩
    · simp [hs] at hrun
    · simp [hp] at hnone
    · obtain ⟨rfl, rfl⟩ := List.cons.inj (hp.symm.trans hp')
      exact ProgramFollowsPolicy.exec hi
  · rw [stepRunsDecodedInstruction.2.2.2 s op ls hs] at h
    cases h
    exact ProgramFollowsPolicy.advance op ls s

end Sys2Proof.Machine
end

section
/-! The framing discipline of R115: where the lines of an operation leave a trace, and that every operation leaves it outside a
frame. -/

namespace Sys2Proof.Machine

/-! ### One line under the discipline -/

/-- Where a trace stands after a line that lets the operation go on: a write was then taken whole, and what a sample read does not
matter. -/
def frameLine (chunk : Nat) (f : Framing) : Line → Framing
  | .setRst v => frameEvent chunk f (.rst v)
  | .setDc v => frameEvent chunk f (.dc v)
  | .csAssert => frameEvent chunk f .csAssert
  | .csDeassert => frameEvent chunk f .csDeassert
  | .wr _ k => frameEvent chunk f (.wr k (.count k.length))
  | .delay ms => frameEvent chunk f (.dly ms)
  | .sample => frameEvent chunk f (.busy 0#1)
  | .pollsZero => f
  | .setSt _ => f

/-- Lines that, each letting the operation go on, take a trace with no frame open to one with no frame open (R115). -/
def Framed (chunk : Nat) (ls : List Line) : Prop := ls.foldl (frameLine chunk) .outside = .outside

theorem framingOf_append (chunk : Nat) (es : List Event) (e : Event) :
    framingOf chunk (es ++ [e]) = frameEvent chunk (framingOf chunk es) e := by
  simp [framingOf]

/-- Nothing mends a trace that broke the discipline. -/
theorem foldl_frameLine_broken (chunk : Nat) (ls : List Line) : ls.foldl (frameLine chunk) .broken = .broken := by
  induction ls with
  | nil => rfl
  | cons l ls ih => cases l <;> exact ih

theorem frameLine_ne_broken {chunk : Nat} {f : Framing} {l : Line} {ls : List Line}
    (h : (l :: ls).foldl (frameLine chunk) f = .outside) : frameLine chunk f l ≠ .broken := by
  intro hb
  rw [List.foldl_cons, hb, foldl_frameLine_broken] at h
  cases h

/-- The answers to a write that was taken whole are alike to the discipline. -/
theorem frameEvent_wr_of_takenWhole {chunk : Nat} {k : List Byte} {r : WrAnswer} (h : takenWhole k.length r = true) (f : Framing) :
    frameEvent chunk f (.wr k r) = frameEvent chunk f (.wr k (.count k.length)) := by
  have hfull : takenWhole k.length (.count k.length) = true := by simp [takenWhole]
  cases f with
  | inside => simp only [frameEvent, h, hfull]
  | outside | broken => rfl

/-- A write that may stand where it does and was not taken whole ends the frame (log 23). -/
theorem frameEvent_wr_of_not_takenWhole {chunk : Nat} {k : List Byte} {r : WrAnswer} {f : Framing}
    (h : takenWhole k.length r = false) (hok : frameEvent chunk f (.wr k (.count k.length)) ≠ .broken) :
    frameEvent chunk f (.wr k r) = .outside := by
  cases f with
  | inside =>
    have hlen : 1 ≤ k.length ∧ k.length ≤ chunk := by
      by_contra hn
      simp [frameEvent, hn] at hok
    simp [frameEvent, hlen, h]
  | outside | broken => exact absurd rfl hok

/-- The discipline does not ask what a sample read. -/
theorem frameEvent_busy_congr (chunk : Nat) (f : Framing) (v w : Level) :
    frameEvent chunk f (.busy v) = frameEvent chunk f (.busy w) := by
  cases f <;> rfl

/-- A sample that may stand where it does was taken with no frame open. -/
theorem frameEvent_busy {chunk : Nat} {f : Framing} {v : Level} (hok : frameEvent chunk f (.busy v) ≠ .broken) (w : Level) :
    frameEvent chunk f (.busy w) = .outside := by
  cases f with
  | outside => rfl
  | inside | broken => exact absurd rfl hok

/-! ### Running lines under the discipline -/

/-- A line that lets the operation go on takes the trace where `frameLine` says. -/
theorem framingOf_of_next {l : Line} {s t : State} (h : runLine l s = .next t) (chunk : Nat) :
    framingOf chunk t.trace = frameLine chunk (framingOf chunk s.trace) l := by
  rcases runLine_next h with ⟨v, rfl, rfl⟩ | ⟨v, rfl, rfl⟩ | ⟨rfl, rfl⟩ | ⟨rfl, rfl⟩ | ⟨o, k, rfl, hk, rfl⟩ | ⟨m, rfl, rfl⟩ |
    ⟨rfl, rfl⟩ | ⟨rfl, -, rfl⟩ | ⟨st, rfl, rfl⟩
  · exact framingOf_append _ _ _
  · exact framingOf_append _ _ _
  · exact framingOf_append _ _ _
  · exact framingOf_append _ _ _
  · exact (framingOf_append _ _ _).trans (frameEvent_wr_of_takenWhole hk _)
  · exact framingOf_append _ _ _
  · rfl
  · exact (framingOf_append _ _ _).trans (frameEvent_busy_congr _ _ _ _)
  · rfl

/-- A line that raises and may stand where it does leaves no frame open: its write ended the frame, or it was a sample. -/
theorem framingOf_of_raise {l : Line} {s t : State} {e : Err} (h : runLine l s = .raise e t) {chunk : Nat}
    (hok : frameLine chunk (framingOf chunk s.trace) l ≠ .broken) : framingOf chunk t.trace = .outside := by
  rcases runLine_raise h with ⟨o, k, rfl, hk, -, rfl⟩ | ⟨rfl, -, -, -, rfl⟩
  · exact (framingOf_append _ _ _).trans (frameEvent_wr_of_not_takenWhole hk hok)
  · exact (framingOf_append _ _ _).trans (frameEvent_busy hok _)

theorem framingOf_of_busy {l : Line} {s t : State} (h : runLine l s = .busy t) {chunk : Nat}
    (hok : frameLine chunk (framingOf chunk s.trace) l ≠ .broken) : framingOf chunk t.trace = .outside := by
  obtain ⟨rfl, -, -, rfl⟩ := runLine_busy h
  exact (framingOf_append _ _ _).trans (frameEvent_busy hok _)

/-- Running framed lines from a trace with no frame open ends with none open, whatever the environment answers (R115). -/
theorem Framed.framingOf_advance {chunk : Nat} {ls : List Line} (h : Framed chunk ls) (op : OpName) {s : State}
    (hs : framingOf chunk s.trace = .outside) : framingOf chunk (advance op ls s).trace = .outside := by
  refine advance_induction (P := fun ls u => ls.foldl (frameLine chunk) (framingOf chunk u.trace) = .outside)
    (Q := fun u => framingOf chunk u.trace = .outside) ?_ ?_ ?_ ?_ ls s (by rw [hs]; exact h)
  · exact fun u hu => hu
  · intro l ls u t hu hl
    rw [framingOf_of_next hl]
    exact hu
  · intro l ls u e t hu hl
    rw [State.raiseIn_trace]
    exact framingOf_of_raise hl (frameLine_ne_broken hu)
  · exact fun l ls u t hu hl => framingOf_of_busy hl (frameLine_ne_broken hu)

/-! ### The operations are framed -/

theorem Framed.append {chunk : Nat} {ls ms : List Line} (h : Framed chunk ls) (k : Framed chunk ms) : Framed chunk (ls ++ ms) := by
  rw [Framed, List.foldl_append, h, k]

/-- A line that drives no chip-select and writes nothing, in front of framed lines. -/
theorem Framed.cons {chunk : Nat} {l : Line} {ls : List Line} (hl : frameLine chunk .outside l = .outside) (h : Framed chunk ls) :
    Framed chunk (l :: ls) := by
  rw [Framed, List.foldl_cons, hl, h]

/-- The chunk loop stays inside its frame: its chunks hold 1 to `CHUNK` bytes (R110). -/
theorem foldl_frameLine_chunkLines {chunk : Nat} (hc : 0 < chunk) (n off : Nat) (bytes : List Byte) :
    (chunkLines chunk n off bytes).foldl (frameLine chunk) .inside = .inside := by
  induction n generalizing off bytes with
  | zero => rfl
  | succ n ih =>
    cases bytes with
    | nil => rfl
    | cons b bs =>
      have hlen : 1 ≤ ((b :: bs).take chunk).length ∧ ((b :: bs).take chunk).length ≤ chunk := by
        rw [List.length_take, List.length_cons]
        omega
      have hfirst : frameLine chunk .inside (.wr off ((b :: bs).take chunk)) = .inside := by
        simp only [frameLine, frameEvent, if_pos hlen, takenWhole, Nat.le_refl, decide_true, if_true]
      rw [chunkLines, List.foldl_cons, hfirst, ih]

section
variable {c : Cfg} (hc : 0 < c.chunk)
include hc

theorem framed_transferLines (bytes : List Byte) : Framed c.chunk (transferLines c bytes) := by
  have hinside : frameLine c.chunk .outside .csAssert = .inside := rfl
  rw [Framed, transferLines, List.foldl_cons, List.foldl_append, hinside, foldl_frameLine_chunkLines hc]
  rfl

theorem framed_sendCommandLines (opcode : Byte) : Framed c.chunk (sendCommandLines c opcode) :=
  .cons rfl (framed_transferLines hc _)

theorem framed_sendDataLines (bytes : List Byte) : Framed c.chunk (sendDataLines c bytes) := by
  unfold sendDataLines
  split
  · rfl
  · exact .cons rfl (framed_transferLines hc bytes)

theorem framed_sendLines (opcode : Byte) (payload : List Byte) : Framed c.chunk (sendLines c opcode payload) :=
  (framed_sendCommandLines hc opcode).append (framed_sendDataLines hc payload)

theorem framed_pollLines : Framed c.chunk (pollLines c) := (framed_sendLines hc _ _).append rfl

theorem framed_waitLines : Framed c.chunk (waitLines c) := .cons rfl ((framed_pollLines hc).append rfl)

theorem framed_tableLines (table : List (Byte × List Byte)) : Framed c.chunk (tableLines c table) := by
  induction table with
  | nil => rfl
  | cons e rest ih => exact (framed_sendLines hc e.1 e.2).append ih

theorem framed_refreshLines : Framed c.chunk (refreshLines c) :=
  (framed_sendLines hc _ _).append (.cons rfl (framed_waitLines hc))

/-- What follows the poll loop of each operation that waits (R132, R133, R135 to R137). -/
theorem framed_of_afterWait {op : OpName} {rest : List Line} (hrest : afterWait c op = some rest) : Framed c.chunk rest := by
  cases op with
  | waitUntilIdle | init | draw | draw2 | clear => cases hrest; rfl
  | sleep => cases hrest; exact .cons rfl ((framed_sendLines hc _ _).append rfl)
  | transfer | sendCommand | sendData | send | reset => cases hrest
  | packMono | getPixel | setPixel | packBichro | pixelCode => cases hrest

end

/-- Every operation is framed. -/
theorem Runs.framed {s : State} {i : Instr} {op : OpName} {ls : List Line} (h : Runs s i op ls) (hc : 0 < s.cfg.chunk) :
    Framed s.cfg.chunk ls := by
  cases h with
  | transfer b => exact framed_transferLines hc _
  | sendCommand opcode => exact framed_sendCommandLines hc opcode
  | sendData b => exact framed_sendDataLines hc _
  | send => exact framed_sendLines hc _ _
  | reset => rfl
  | init => exact .cons rfl ((framed_tableLines hc _).append ((framed_waitLines hc).append rfl))
  | waitUntilIdle => exact framed_waitLines hc
  | sleep => exact (framed_sendLines hc _ _).append ((framed_waitLines hc).append ((framed_sendLines hc _ _).append rfl))
  | draw => exact (framed_sendLines hc _ _).append (framed_refreshLines hc)
  | clear _ _ _ plan n =>
    exact Framed.append (planLines_eq_tableLines s.cfg n plan ▸ framed_tableLines hc _) (framed_refreshLines hc)

/-- Settles O51: the lines left of a running operation and the lines an instruction starts are framed, and what runs no lines adds
no event. -/
theorem stepKeepsFraming : Obligations.StepKeepsFraming := by
  intro s t hseq hinv hc h
  have hcfg : t.cfg = s.cfg := (stepOnlyAddsHistory s t h).1
  have houtside : framingOf s.cfg.chunk s.trace = .outside := hinv
  rw [FramingInv, hcfg]
  refine ⟨?_, hc⟩
  rcases step_cases h with ⟨op, ls, hs, rfl⟩ | ⟨-, -, rfl⟩ | ⟨-, w, rest, i, -, -, hi⟩
  · obtain ⟨-, rest, hrest, rfl⟩ := hseq.of_running hs
    exact ((framed_pollLines hc).append (framed_of_afterWait hc hrest)).framingOf_advance op houtside
  · exact houtside
  · cases exec_startedAs hi with
    | gave v h => exact h ▸ houtside
    | stored _ b bytes v h => simpa [h] using houtside
    | raised op e _ h => simpa [h] using houtside
    | ran op ls hr h => exact h ▸ (hr.framed hc).framingOf_advance op houtside

end Sys2Proof.Machine
end

section
/-! The Bus Transport operations: TRANSFER to its end or to its first write that is not taken whole, SEND, and what a bus phase
appends and returns as a function of its lines and the answers alone (R110, R113, R114, R116, R221). -/

namespace Sys2Proof.Machine

/-! ### The whole bus phase taken (R110, R113) -/

/-- TRANSFER started while SEQ is idle runs its lines (R110, R264). -/
theorem exec_transfer_of_idle {s : State} {b : Buf} (hs : s.seq = .idle) (hc : 0 < s.cfg.chunk) :
    exec (.transfer b) s = .next (advance .transfer (transferLines s.cfg (s.bytesOf b)) s) :=
  (State.whenIdle_of hs).trans (State.launch_of hc)

/-- Settles O7: every chunk is taken whole, so the transfer runs to its deassert. -/
theorem transferCompletes : Obligations.TransferCompletes := by
  intro s b hs hc hf
  have hrun := advance_transfer .transfer s.cfg (s.bytesOf b) [] s rfl hc hf
  rw [List.append_nil] at hrun
  rw [exec_transfer_of_idle hs hc, hrun]
  rfl

/-- Settles O10: SEND is the bus phase of a wire command with this opcode and payload. -/
theorem sendCompletes : Obligations.SendCompletes := fun s opcode b hs hc hf =>
  (exec_send_of_idle s opcode b hs).trans (s.launch_send opcode (s.bytesOf b) hc hf)

/-! ### A transfer up to a write that is not taken whole (R110, R221) -/

/-- A write taken whole, in front of further lines (R114). -/
theorem advance_wr_full (op : OpName) (off : Nat) (k : List Byte) (ms : List Line) {s : State} (h : s.wrDrawAt 0 = .full) :
    advance op (.wr off k :: ms) s = advance op ms (s.told [.wr k (.count k.length)] 1 0) := by
  have hans : s.wrAnswer k.length = .count k.length := by rw [State.wrAnswer, h, answerOf]
  have hwr : s.wr k = s.told [.wr k (.count k.length)] 1 0 := by simp [State.wr, State.told, hans]
  have hgo : runLine (.wr off k) s = .next (s.wr k) := by simp [runLine, hans, takenWhole]
  rw [advance_cons_next hgo, hwr]

/-- A write that is not taken whole ends the operation, whatever lines follow (R110, R221). -/
theorem advance_wr_short (op : OpName) (off : Nat) (k : List Byte) (ms : List Line) {s : State}
    (h : takenWhole k.length (s.wrAnswer k.length) = false) :
    advance op (.wr off k :: ms) s = (s.wr k).raiseIn op (.transport off k.length (s.wrAnswer k.length)) :=
  advance_cons_raise (by simp [runLine, h])

theorem ne_nil_of_lt_writesOf {c m : Nat} {l : List Byte} (hc : 0 < c) (h : m < writesOf c l) : l ≠ [] := by
  rintro rfl
  rw [writesOf_nil c hc] at h
  exact absurd h (Nat.not_lt_zero m)

/-- The chunk loop of a list that is not empty begins with its first chunk. -/
theorem chunkLines_of_ne_nil {c n off : Nat} {l : List Byte} (hne : l ≠ []) :
    chunkLines c (n + 1) off l = .wr off (l.take c) :: chunkLines c n (off + c) (l.drop c) := by
  cases l with
  | nil => exact absurd rfl hne
  | cons b bs => rfl

theorem State.told_nil (s : State) : s.told [] 0 0 = s := by simp [State.told]

/-- A write after events already told (R114). -/
theorem State.wr_told (s : State) (es : List Event) (nw nb : Nat) (k : List Byte) :
    (s.told es nw nb).wr k = s.told (es ++ [.wr k (answerOf (s.wrDrawAt nw) k.length)]) (nw + 1) nb := by
  have hans : (s.told es nw nb).wrAnswer k.length = answerOf (s.wrDrawAt nw) k.length := by
    rw [State.wrAnswer, State.wrDrawAt_told, Nat.add_zero]
  rw [State.wr, hans]
  simp [State.told, Nat.add_assoc]

/-- The chunk loop whose first `m` writes are taken whole and whose next one, of chunk `k`, is not ends at that one (R110, R221). -/
theorem advance_chunks_short (op : OpName) {c : Nat} (hc : 0 < c) (ms : List Line) {m n off : Nat} {l k : List Byte} {s : State}
    (hn : l.length ≤ n) (hm : m < writesOf c l) (hf : s.AllFull m) (hk : (l.drop (m * c)).take c = k) {r : WrAnswer}
    (hr : answerOf (s.wrDrawAt m) k.length = r) (hshort : takenWhole k.length r = false) :
    advance op (chunkLines c n off l ++ ms) s =
      (s.told (((chunksOf c l).take m).map (fun k => .wr k (.count k.length)) ++ [.wr k r]) (m + 1) 0).raiseIn op
        (.transport (off + m * c) k.length r) := by
  induction m generalizing n off l s with
  | zero =>
    have hne : l ≠ [] := ne_nil_of_lt_writesOf hc hm
    have hlen : 0 < l.length := List.length_pos_iff.mpr hne
    obtain ⟨n, rfl⟩ : ∃ n', n = n' + 1 := ⟨n - 1, by omega⟩
    rw [Nat.zero_mul, List.drop_zero] at hk
    subst hr
    have hwr := s.wr_told [] 0 0 k
    rw [State.told_nil] at hwr
    rw [chunkLines_of_ne_nil hne, List.cons_append, hk, advance_wr_short op off k _ hshort, hwr, Nat.zero_mul]
    rfl
  | succ m ih =>
    have hne : l ≠ [] := ne_nil_of_lt_writesOf hc hm
    have hlen : 0 < l.length := List.length_pos_iff.mpr hne
    obtain ⟨n, rfl⟩ : ∃ n', n = n' + 1 := ⟨n - 1, by omega⟩
    have hfirst : s.wrDrawAt 0 = .full := hf 0 (Nat.succ_pos m)
    have hdraw : ∀ j, (s.told [.wr (l.take c) (.count (l.take c).length)] 1 0).wrDrawAt j = s.wrDrawAt (j + 1) := fun j => by
      rw [State.wrDrawAt_told, Nat.add_comm]
    have hwrites := writesOf_drop c hc l hne
    rw [chunkLines_of_ne_nil hne, List.cons_append, advance_wr_full op off _ _ hfirst,
      ih (by rw [List.length_drop]; omega) (by omega) (fun j hj => (hdraw j).trans (hf _ (by omega)))
        (by rw [List.drop_drop, ← hk, Nat.succ_mul, Nat.add_comm]) (by rw [hdraw]; exact hr),
      State.told_told, chunksOf_cons c hc l hne, Nat.add_comm 1, Nat.add_assoc off, Nat.add_comm c, ← Nat.succ_mul]
    rfl

/-- Settles O12: the chunk loop ends at that write, and an error adds no event. -/
theorem transferStopsAtShortWrite : Obligations.TransferStopsAtShortWrite := by
  intro s b m hs hc hm hf chunk r hr
  have hrun := advance_chunks_short .transfer hc [.csDeassert] (off := 0) (k := chunk) (s := s.assertCs) (Nat.le_refl _) hm hf rfl
    (r := r) rfl (takenWhole_eq_false.mpr hr)
  refine ⟨_, exec_transfer_of_idle hs hc, ?_⟩
  rw [transferLines, advance_cons_next (t := s.assertCs) rfl, hrun]
  refine ⟨?_, by simp, by simp [isPanelOp], by simp, by simp, by simp, by simp, rfl, by simp [Nat.add_assoc], by simp⟩
  rw [State.raiseIn_returns, Nat.zero_add]
  rfl

/-! ### What a bus phase appends and returns (R116) -/

/-- The events that bus lines append, given the answers to their writes: those of the lines up to the first write that is not taken
whole (R110). -/
def busEvents : (Nat → WrDraw) → List Line → List Event
  | _, [] => []
  | d, .wr _ k :: ls =>
    .wr k (answerOf (d 0) k.length) ::
      (if takenWhole k.length (answerOf (d 0) k.length) then busEvents (fun j => d (j + 1)) ls else [])
  | d, .setDc v :: ls => .dc v :: busEvents d ls
  | d, .csAssert :: ls => .csAssert :: busEvents d ls
  | d, .csDeassert :: ls => .csDeassert :: busEvents d ls
  | d, .setRst _ :: ls | d, .delay _ :: ls | d, .pollsZero :: ls | d, .sample :: ls | d, .setSt _ :: ls => busEvents d ls

/-- What an operation of bus lines returns, given the answers to its writes (R110, R221). -/
def busResult : (Nat → WrDraw) → List Line → Ret
  | _, [] => .ok .unit
  | d, .wr off k :: ls =>
    if takenWhole k.length (answerOf (d 0) k.length) then busResult (fun j => d (j + 1)) ls
    else .error (.transport off k.length (answerOf (d 0) k.length))
  | d, .setDc _ :: ls | d, .csAssert :: ls | d, .csDeassert :: ls => busResult d ls
  | d, .setRst _ :: ls | d, .delay _ :: ls | d, .pollsZero :: ls | d, .sample :: ls | d, .setSt _ :: ls => busResult d ls

theorem State.wrDrawAt_wr (s : State) (k : List Byte) : (s.wr k).wrDrawAt = fun j => s.wrDrawAt (j + 1) := by
  funext j
  simp [State.wrDrawAt, Nat.add_assoc, Nat.add_comm 1]

/-- Running bus lines appends and returns what the lines and the answers say, and nothing else of the state counts (R116). -/
theorem advance_bus (op : OpName) (ls : List Line) (s : State) (h : ∀ l ∈ ls, l.isBus = true) :
    (advance op ls s).trace = s.trace ++ busEvents s.wrDrawAt ls ∧
    (advance op ls s).returns = s.returns ++ [busResult s.wrDrawAt ls] := by
  induction ls generalizing s with
  | nil => exact ⟨(List.append_nil _).symm, rfl⟩
  | cons l ls ih =>
    obtain ⟨hl, hls⟩ := List.forall_mem_cons.mp h
    cases l with
    | setDc v => exact (ih (s.setDc v) hls).imp_left fun h => h.trans (List.append_assoc _ _ _)
    | csAssert => exact (ih s.assertCs hls).imp_left fun h => h.trans (List.append_assoc _ _ _)
    | csDeassert => exact (ih s.deassertCs hls).imp_left fun h => h.trans (List.append_assoc _ _ _)
    | wr off k =>
      by_cases hw : takenWhole k.length (answerOf (s.wrDrawAt 0) k.length) = true
      · obtain ⟨htrace, hret⟩ := ih (s.wr k) hls
        have hgo : runLine (.wr off k) s = .next (s.wr k) := if_pos hw
        rw [State.wrDrawAt_wr] at htrace hret
        rw [advance_cons_next hgo, htrace, hret, busEvents, if_pos hw, busResult, if_pos hw, State.wr_trace, List.append_assoc]
        exact ⟨rfl, rfl⟩
      · rw [advance_wr_short op off k ls (Bool.eq_false_iff.mpr hw), busEvents, if_neg hw, busResult, if_neg hw]
        exact ⟨State.raiseIn_trace .., State.raiseIn_returns ..⟩
    | setRst | delay | pollsZero | sample | setSt => cases hl

theorem State.bytesOf_congr {s t : State} (h : t.bufs = s.bufs) (b : Buf) : t.bytesOf b = s.bytesOf b := by
  cases b with
  | lit bytes => rfl
  | ref id => exact congrArg (readBuffers · id) h

/-- A Bus Transport operation and a wire command start the same bus lines in two states with the same CFG and buffers. -/
theorem exec_transport_congr {i : Instr} {s s' : State} (hi : isTransportInstr i = true) (hcfg : s'.cfg = s.cfg)
    (hbufs : s'.bufs = s.bufs) :
    ∃ op ls, isPanelOp op = false ∧ (∀ l ∈ ls, l.isBus = true) ∧ exec i s = s.whenIdle (s.launch op ls) ∧
      exec i s' = s'.whenIdle (s'.launch op ls) := by
  have hbytes := State.bytesOf_congr hbufs
  cases i with
  | transfer b => exact ⟨_, _, rfl, transferLines_isBus s.cfg (s.bytesOf b), rfl, hcfg ▸ hbytes b ▸ rfl⟩
  | sendCommand opcode => exact ⟨_, _, rfl, sendCommandLines_isBus s.cfg opcode, rfl, hcfg ▸ rfl⟩
  | sendData b => exact ⟨_, _, rfl, sendDataLines_isBus s.cfg (s.bytesOf b), rfl, hcfg ▸ hbytes b ▸ rfl⟩
  | send opcode b => exact ⟨_, _, rfl, sendLines_isBus s.cfg opcode (s.bytesOf b), rfl, hcfg ▸ hbytes b ▸ rfl⟩
  | powerSetting | panelSetting | pllControl | vcomDataInterval | boosterSoftStart | tconResolution
  | dataStart | dataStart2 | displayRefresh | powerOff | deepSleep | getStatus =>
    exact ⟨_, _, rfl, sendLines_isBus _ _ _, rfl, hcfg ▸ rfl⟩
  | _ => cases hi

/-- Settles O15: the two starts run the same bus lines, which append and return what the answers say. -/
theorem transportIsStateless : Obligations.TransportIsStateless := by
  intro i s s' t hi hs' hcfg hbufs hdraws h
  obtain ⟨op, ls, hop, hbus, hexec, hexec'⟩ := exec_transport_congr hi hcfg hbufs
  have hs : s.seq = .idle := idle_of_exec h
  rw [hexec, State.whenIdle_of hs] at h
  have hc : 0 < s.cfg.chunk := Nat.pos_of_ne_zero fun h0 => by simp [State.launch, h0] at h
  rw [State.launch_of hc] at h
  cases h
  obtain ⟨htrace, hret⟩ := advance_bus op ls s hbus
  obtain ⟨htrace', hret'⟩ := advance_bus op ls s' hbus
  rw [funext hdraws] at htrace' hret'
  refine ⟨_, _, advance op ls s', htrace, hret, ?_, htrace', hret', advance_st_eq op ls s' hop (isPlain_of_isBus hbus)⟩
  rw [hexec', State.whenIdle_of hs', State.launch_of (hcfg ▸ hc)]

end Sys2Proof.Machine
end

section
/-! The Panel State Machine where every write is taken whole and the first sample is idle: RESET, INIT, WAIT_UNTIL_IDLE and
SLEEP to their end (R131 to R133, R137). -/

namespace Sys2Proof.Machine

/-- Settles O16: selector 0x10 is RESET's, whose lines hold neither a write nor a sample, so they run to the end. -/
theorem resetCompletes : Obligations.ResetCompletes := by
  refine ⟨fun _ => rfl, fun s hs => ?_⟩
  have hexec : exec .reset s = .next (advance .reset resetLines s) := State.whenIdle_of hs
  rw [hexec]
  simp [resetLines, advance, runLine, State.setRst, State.emit, State.setSt, State.finish, hs, Config.tRstHigh1, Config.tRstLow,
    Config.tRstHigh2]

/-! ### The starts that are admitted (R130, R264) -/

theorem exec_init_of_reset {s : State} (hs : s.seq = .idle) (hc : 0 < s.cfg.chunk) (hst : s.st = .reset) :
    exec .init s = .next (advance .init (initLines s.cfg) s) :=
  (State.whenIdle_of hs).trans ((State.admitted_of hst).trans (State.launch_of hc))

theorem exec_waitUntilIdle_of_idle {s : State} (hs : s.seq = .idle) (hc : 0 < s.cfg.chunk) :
    exec .waitUntilIdle s = .next (advance .waitUntilIdle (waitLines s.cfg) s) :=
  (State.whenIdle_of hs).trans (State.launch_of hc)

theorem exec_sleep_of_ready {s : State} (hs : s.seq = .idle) (hc : 0 < s.cfg.chunk) (hst : s.st = .ready) :
    exec .sleep s = .next (advance .sleep (sleepLines s.cfg) s) :=
  (State.whenIdle_of hs).trans ((State.admitted_of hst).trans (State.launch_of hc))

/-! ### A table sent (R132) -/

/-- The state that the table loop leaves where every write is taken whole, as `advance_table` has it: a table that is empty sends
nothing, and the latches stay. -/
def State.tableSent (s : State) (c : Cfg) (table : List (Byte × List Byte)) : State :=
  match table.getLast? with
  | none => s
  | some e => s.sentOn (tableTrace c table) (tableWrites c table) 0 e.2

theorem State.tableSent_cases (s : State) (c : Cfg) (table : List (Byte × List Byte)) :
    (table = [] ∧ s.tableSent c table = s) ∨
    ∃ last, s.tableSent c table = s.sentOn (tableTrace c table) (tableWrites c table) 0 last := by
  unfold State.tableSent
  split
  · exact .inl ⟨List.getLast?_eq_none_iff.mp ‹_›, rfl⟩
  · exact .inr ⟨_, rfl⟩

/-- What is sent after a table fixes the latches, whether or not the table was empty. -/
theorem State.sentOn_tableSent (s : State) (c : Cfg) (table : List (Byte × List Byte)) (es : List Event) (nw nb : Nat)
    (last : List Byte) :
    (s.tableSent c table).sentOn es nw nb last = s.sentOn (tableTrace c table ++ es) (tableWrites c table + nw) nb last := by
  rcases s.tableSent_cases c table with ⟨rfl, h⟩ | ⟨p, h⟩ <;> rw [h]
  · simp [tableTrace, tableWrites]
  · rw [State.sentOn_sentOn, Nat.zero_add]

theorem State.allFull_tableSent {s : State} {c : Cfg} {table : List (Byte × List Byte)} {m : Nat}
    (h : s.AllFull (tableWrites c table + m)) : (s.tableSent c table).AllFull m := by
  rcases s.tableSent_cases c table with ⟨rfl, ht⟩ | ⟨p, ht⟩ <;> rw [ht]
  · exact h.mono (Nat.le_add_left m _)
  · exact State.allFull_sentOn _ _ _ h

theorem State.busyAt_tableSent (s : State) (c : Cfg) (table : List (Byte × List Byte)) (j : Nat) :
    (s.tableSent c table).busyAt j = s.busyAt j := by
  rcases s.tableSent_cases c table with ⟨-, h⟩ | ⟨p, h⟩ <;> rw [h]
  rw [State.busyAt_sentOn, Nat.zero_add]

theorem State.tableSent_cfg (s : State) (c : Cfg) (table : List (Byte × List Byte)) : (s.tableSent c table).cfg = s.cfg := by
  rcases s.tableSent_cases c table with ⟨-, h⟩ | ⟨p, h⟩ <;> rw [h]
  rfl

/-! ### After an undisturbed bus phase -/

/-- A wire command after a bus phase and the samples of a wait (R113). -/
theorem advance_send_sentOn {s : State} {payload : List Byte} {nw nb : Nat} (hc : 0 < s.cfg.chunk)
    (hf : s.AllFull (nw + sendWrites s.cfg payload)) (op : OpName) (opcode : Byte) (es : List Event) (last : List Byte) (n : Nat)
    (ms : List Line) :
    advance op (sendLines s.cfg opcode payload ++ ms) ((s.sentOn es nw nb last).atPolls n) =
      advance op ms ((s.sentOn (es ++ sendTrace s.cfg opcode payload) (nw + sendWrites s.cfg payload) nb payload).atPolls n) := by
  rw [advance_send op s.cfg opcode payload ms ((s.sentOn es nw nb last).atPolls n) rfl hc (State.allFull_sentOn es nb last hf)]
  exact congrArg (fun u => advance op ms (State.atPolls u n)) 
    (State.sentOn_sentOn s es (sendTrace s.cfg opcode payload) nw nb (sendWrites s.cfg payload) 0 last payload)

/-- A wait after an undisturbed bus phase that took no sample, where the panel is idle at the wait's first sample (R133). -/
theorem advance_wait_idle_sentOn {s : State} {nw : Nat} (hc : 0 < s.cfg.chunk) (hf : s.AllFull (nw + pollWrites s.cfg))
    (hi : s.IdleNext) (op : OpName) (es : List Event) (last : List Byte) (ms : List Line) :
    advance op (waitLines s.cfg ++ ms) (s.sentOn es nw 0 last) =
      advance op ms ((s.sentOn (es ++ idleTrace s.cfg) (nw + pollWrites s.cfg) 1 s.cfg.plGetStatus).atPolls 1) := by
  have hidle : (s.sentOn es nw 0 last).busyAt 0 = s.cfg.busyIdleLevel := (State.busyAt_sentOn s es nw 0 last 0).trans hi
  rw [advance_wait_idle op s.cfg ms (s.sentOn es nw 0 last) rfl hc (State.allFull_sentOn es 0 last hf) hidle,
    State.sentOn_sentOn]

/-! ### The operations to their end -/

/-- Settles O17: the table loop, the wait and the two writes of `ST` run one after the other. -/
theorem initCompletes : Obligations.InitCompletes := by
  intro s hs hc hst hf hi
  have htable := advance_table .init s.cfg (waitLines s.cfg ++ [.setSt .ready]) s.cfg.initSeq (s.atSt .initializing) rfl hc
    (hf.mono (Nat.le_add_right _ _) : s.AllFull _)
  have hwait := advance_wait_idle .init s.cfg [.setSt .ready] ((s.atSt .initializing).tableSent s.cfg s.cfg.initSeq)
    (State.tableSent_cfg _ _ _) hc (State.allFull_tableSent (s := s.atSt .initializing) hf)
    ((State.busyAt_tableSent _ _ _ 0).trans hi)
  rw [exec_init_of_reset hs hc hst, initLines, advance_cons_next (t := s.atSt .initializing) rfl, htable]
  refine congrArg _ (hwait.trans ?_)
  rw [State.sentOn_tableSent]
  rfl

/-- Settles O18: the wait is one poll iteration and the settle delay. -/
theorem waitCompletesWhenIdleAtOnce : Obligations.WaitCompletesWhenIdleAtOnce := by
  intro s hs hc hf hi
  have hwait := advance_wait_idle .waitUntilIdle s.cfg [] s rfl hc hf hi
  rw [List.append_nil] at hwait
  rw [exec_waitUntilIdle_of_idle hs hc, hwait]
  rfl

/-- Settles O19: power-off, the wait, deep-sleep and the write of `ST` run one after the other. -/
theorem sleepCompletes : Obligations.SleepCompletes := by
  intro s hs hc hst hf hi
  have hfWait : s.AllFull (sendWrites s.cfg s.cfg.plPowerOff + pollWrites s.cfg) := hf.mono (Nat.le_add_right _ _)
  rw [exec_sleep_of_ready hs hc hst, sleepLines,
    advance_send .sleep s.cfg s.cfg.opPowerOff s.cfg.plPowerOff _ s rfl hc (hfWait.mono (Nat.le_add_right _ _)),
    advance_wait_idle_sentOn hc hfWait hi, advance_send_sentOn hc hf]
  rfl

end Sys2Proof.Machine
end

section
/-! WAIT_UNTIL_IDLE turn by turn where every write is taken whole: the state after some busy samples, the three ways the next
turn can go, and the run of the turns within the budget (R133, R223, R238). -/

namespace Sys2Proof.Machine

/-- The events of the first `n` poll iterations from `s` (R133). -/
def State.pollsTrace (s : State) (n : Nat) : List Event :=
  (List.range n).flatMap fun j => pollTrace s.cfg (s.busyAt j)

/-- `s` after `n` poll iterations of a wait, whose `n` samples `POLLS` has counted (R133). -/
def State.polled (s : State) (n : Nat) : State :=
  (s.sentOn (s.pollsTrace n) (n * pollWrites s.cfg) n s.cfg.plGetStatus).atPolls n

theorem State.pollsTrace_succ (s : State) (n : Nat) :
    s.pollsTrace (n + 1) = s.pollsTrace n ++ pollTrace s.cfg (s.busyAt n) := by
  simp [State.pollsTrace, List.range_succ]

theorem State.busyAt_polled (s : State) (n : Nat) : (s.polled n).busyAt 0 = s.busyAt n :=
  State.busyAt_sentOn s (s.pollsTrace n) (n * pollWrites s.cfg) n s.cfg.plGetStatus 0

theorem State.allFull_polled {s : State} {n : Nat} (h : s.AllFull ((n + 1) * pollWrites s.cfg)) :
    (s.polled n).AllFull (pollWrites s.cfg) := by
  rw [Nat.succ_mul] at h
  exact State.allFull_sentOn (s.pollsTrace n) n s.cfg.plGetStatus h

/-- One poll iteration after `n` of them makes `n + 1`. -/
theorem State.polled_succ (s : State) (n : Nat) :
    ((s.polled n).sentOn (pollTrace s.cfg ((s.polled n).busyAt 0)) (pollWrites s.cfg) 1 s.cfg.plGetStatus).atPolls (n + 1) =
      s.polled (n + 1) := by
  rw [State.busyAt_polled]
  refine (congrArg (State.atPolls · (n + 1)) (State.sentOn_sentOn s _ _ _ _ _ _ s.cfg.plGetStatus _)).trans ?_
  rw [← State.pollsTrace_succ, ← Nat.succ_mul]
  rfl

section
variable {s : State} {n : Nat} (hc : 0 < s.cfg.chunk) (hf : s.AllFull ((n + 1) * pollWrites s.cfg)) (op : OpName) (ms : List Line)
include hc hf

/-- The next sample is idle: the wait goes on to what follows its poll loop (R133). -/
theorem advance_polled_idle (hi : s.busyAt n = s.cfg.busyIdleLevel) :
    advance op (pollLines s.cfg ++ ms) (s.polled n) = advance op ms (s.polled (n + 1)) := by
  rw [advance_poll_idle op s.cfg ms (s.polled n) rfl hc (State.allFull_polled hf) ((s.busyAt_polled n).trans hi)]
  exact congrArg _ (s.polled_succ n)

/-- The next sample is busy and the budget lasts: the poll loop turns (R133). -/
theorem advance_polled_busy (hi : s.busyAt n ≠ s.cfg.busyIdleLevel) (hb : budgetSpent s.cfg (n + 1) = false) :
    advance op (pollLines s.cfg ++ ms) (s.polled n) = (s.polled (n + 1)).atSeq (.running op (pollLines s.cfg ++ ms)) := by
  rw [← s.busyAt_polled n] at hi
  rw [advance_poll_busy op s.cfg ms (s.polled n) rfl hc (State.allFull_polled hf) hi hb]
  exact congrArg (State.atSeq · _) (s.polled_succ n)

/-- The next sample is busy and uses up the budget: BusyTimeout (R133, R223). -/
theorem advance_polled_timeout (hi : s.busyAt n ≠ s.cfg.busyIdleLevel) (hb : budgetSpent s.cfg (n + 1) = true) :
    advance op (pollLines s.cfg ++ ms) (s.polled n) = (s.polled (n + 1)).raiseIn op (.busyTimeout (n + 1)) := by
  rw [← s.busyAt_polled n] at hi
  rw [advance_poll_timeout op s.cfg ms (s.polled n) rfl hc (State.allFull_polled hf) hi hb]
  exact congrArg (State.raiseIn op _) (s.polled_succ n)

end

/-- A wait begins its poll loop with no iteration made; which levels the latches have before it does not count (R133). -/
theorem advance_wait_eq_polled_zero {s : State} (hc : 0 < s.cfg.chunk) (hf : s.AllFull (pollWrites s.cfg)) (op : OpName)
    (ms : List Line) :
    advance op (waitLines s.cfg ++ ms) s = advance op (pollLines s.cfg ++ .delay Config.tSettle :: ms) (s.polled 0) := by
  have hf0 : s.AllFull ((0 + 1) * pollWrites s.cfg) := by rwa [Nat.zero_add, Nat.one_mul]
  have hsame : (s.atPolls 0).beforeSample s.cfg = (s.polled 0).beforeSample s.cfg := by
    simp [State.beforeSample, State.polled, State.pollsTrace, State.sentOn, State.told, State.atLines, State.atPolls]
  rw [waitLines, List.cons_append, advance_cons_next (t := s.atPolls 0) rfl, List.append_assoc, List.singleton_append,
    advance_poll op s.cfg _ (s.atPolls 0) rfl hc hf, hsame,
    ← advance_poll op s.cfg _ (s.polled 0) rfl hc (State.allFull_polled hf0)]

/-- The state in which the step ends that makes poll iteration `n + 1` of a wait the host started. -/
def State.waitTurn (s : State) (n : Nat) : State :=
  advance .waitUntilIdle (pollLines s.cfg ++ [.delay Config.tSettle]) (s.polled n)

/-- The step that starts a wait makes its first poll iteration (R133; log 5). -/
theorem exec_waitUntilIdle_eq_waitTurn {s : State} (hs : s.seq = .idle) (hc : 0 < s.cfg.chunk)
    (hf : s.AllFull (pollWrites s.cfg)) : exec .waitUntilIdle s = .next (s.waitTurn 0) := by
  have hwait := advance_wait_eq_polled_zero hc hf .waitUntilIdle []
  rw [List.append_nil] at hwait
  rw [exec_waitUntilIdle_of_idle hs hc, hwait]
  rfl

/-- A step of a wait that stands at its poll loop makes the next poll iteration (R27, R133). -/
theorem step_of_waitTurn_busy {s : State} {n : Nat} (hc : 0 < s.cfg.chunk) (hf : s.AllFull ((n + 1) * pollWrites s.cfg))
    (hi : s.busyAt n ≠ s.cfg.busyIdleLevel) (hb : budgetSpent s.cfg (n + 1) = false) :
    step (s.waitTurn n) = .next (s.waitTurn (n + 1)) := by
  rw [State.waitTurn, advance_polled_busy hc hf _ _ hi hb, step, State.work_of_running rfl]
  exact congrArg _ (advance_atSeq ..)

theorem budgetSpent_mono {c : Cfg} {m n : Nat} (hm : m ≤ n) (h : budgetSpent c n = false) : budgetSpent c m = false := by
  unfold budgetSpent at h ⊢
  split
  · rfl
  · simp_all
    omega

/-- As long as the samples are busy and the budget lasts, each further step makes one poll iteration (R133; log 5). -/
theorem steps?_waitTurn {s : State} {k m : Nat} (hc : 0 < s.cfg.chunk) (hf : s.AllFull ((m + k) * pollWrites s.cfg))
    (hi : ∀ j, j < m + k → s.busyAt j ≠ s.cfg.busyIdleLevel) (hb : budgetSpent s.cfg (m + k) = false) :
    steps? k (s.waitTurn m) = some (s.waitTurn (m + k)) := by
  induction k generalizing m with
  | zero => rfl
  | succ k ih =>
    have hm : m + 1 ≤ m + (k + 1) := by omega
    have hstep := step_of_waitTurn_busy hc (hf.mono (Nat.mul_le_mul_right _ hm)) (hi m hm) (budgetSpent_mono hm hb)
    rw [← Nat.add_assoc, Nat.add_right_comm] at hf hi hb ⊢
    rw [steps?, hstep]
    exact ih hf hi hb

/-- A wait the host starts, and its turns up to the one after `n` busy samples within the budget. -/
theorem exec_waitUntilIdle_steps? {s : State} {n : Nat} (hs : s.seq = .idle) (hc : 0 < s.cfg.chunk)
    (hf : s.AllFull ((n + 1) * pollWrites s.cfg)) (hi : ∀ j, j < n → s.busyAt j ≠ s.cfg.busyIdleLevel)
    (hb : budgetSpent s.cfg n = false) :
    exec .waitUntilIdle s = .next (s.waitTurn 0) ∧ steps? n (s.waitTurn 0) = some (s.waitTurn n) := by
  refine ⟨exec_waitUntilIdle_eq_waitTurn hs hc (hf.mono (Nat.le_mul_of_pos_left _ n.succ_pos)), ?_⟩
  rw [← Nat.zero_add n] at hi hb
  rw [steps?_waitTurn hc (hf.mono (Nat.mul_le_mul_right _ (by omega))) hi hb, Nat.zero_add]

/-- Settles O20: the turn after the busy samples finds the panel idle, settles and returns. -/
theorem waitPollsUntilIdle : Obligations.WaitPollsUntilIdle := by
  intro s p hs hc hf hbusy hidle hbudget
  have hb : budgetSpent s.cfg p = false := by
    unfold budgetSpent
    split
    · rfl
    · exact decide_eq_false (Nat.not_le.mpr (hbudget _ ‹_›))
  obtain ⟨hexec, hsteps⟩ := exec_waitUntilIdle_steps? hs hc hf hbusy hb
  refine ⟨_, hexec, hsteps.trans (congrArg some ?_)⟩
  have hsettle : (s.polled (p + 1)).emit (.dly 100) = (s.sentOn (s.pollsTrace (p + 1) ++ [.dly 100])
      ((p + 1) * pollWrites s.cfg) (p + 1) s.cfg.plGetStatus).atPolls (p + 1) := by
    simp [State.polled, State.emit, State.sentOn, State.told, State.atLines, State.atPolls]
  rw [State.waitTurn, advance_polled_idle hc hf _ _ hidle, advance_cons_next rfl, Config.tSettle, hsettle]
  rfl

/-- Settles O21: the turn after `b` busy samples takes the one that uses up the budget. -/
theorem waitTimesOutAtBudget : Obligations.WaitTimesOutAtBudget := by
  intro s b hs hc hbudget hf hbusy
  have hb : budgetSpent s.cfg b = false := by simp [budgetSpent, hbudget]
  have hspent : budgetSpent s.cfg (b + 1) = true := by simp [budgetSpent, hbudget]
  obtain ⟨hexec, hsteps⟩ := exec_waitUntilIdle_steps? hs hc hf (fun j hj => hbusy j (Nat.lt_succ_of_lt hj)) hb
  refine ⟨_, _, hexec, hsteps, ?_⟩
  rw [State.waitTurn, advance_polled_timeout hc hf _ _ (hbusy b (Nat.lt_succ_self b)) hspent]
  exact ⟨State.raiseIn_returns .., rfl, (State.raiseIn_st ..).trans rfl, State.raiseIn_rstL .., State.raiseIn_bufs ..,
    State.raiseIn_cfg .., State.raiseIn_trace ..⟩

/-- Settles O22: without a budget every busy sample turns the poll loop. -/
theorem waitHangsWithoutBudget : Obligations.WaitHangsWithoutBudget := by
  intro s n hs hc hbudget hf hbusy
  have hb : ∀ m, budgetSpent s.cfg m = false := fun m => by simp [budgetSpent, hbudget]
  obtain ⟨hexec, hsteps⟩ := exec_waitUntilIdle_steps? hs hc hf (fun j hj => hbusy j (Nat.lt_succ_of_lt hj)) (hb n)
  refine ⟨_, _, hexec, hsteps, ?_⟩
  rw [State.waitTurn, advance_polled_busy hc hf _ _ (hbusy n (Nat.lt_succ_self n)) (hb _)]
  exact ⟨rfl, rfl, rfl, rfl⟩

end Sys2Proof.Machine
end

section
/-! The errors of the panel operations: the admission check, and the errors of the bus phase that lead to Fault (R130, R138, R224,
R227). -/

namespace Sys2Proof.Machine

/-- A draw or clear outside Ready, past the checks of its operands, raises InvalidState (R130, R135). -/
theorem panelDraw_of_ne_ready {op : OpName} {bytes : List Byte} {s : State} (h : s.st ≠ .ready) :
    panelDraw op bytes s = .next (s.raiseIn op (.invalidState s.st)) := State.admitted_of_ne h

theorem panelClear_of_ne_ready {plan : List (Byte × Byte)} {n : Nat} {s : State} (h : s.st ≠ .ready) :
    panelClear plan n s = .next (s.raiseIn .clear (.invalidState s.st)) := State.admitted_of_ne h

theorem drawPlanes_of_ne_ready {op : OpName} {b k : List Byte} {s : State} (hb : b.length = s.cfg.planeLen)
    (hk : k.length = s.cfg.planeLen) (h : s.st ≠ .ready) :
    drawPlanes op b k s = .next (s.raiseIn op (.invalidState s.st)) :=
  (State.checkLen_of (hb.trans hk.symm)).trans ((State.checkLen_of hb).trans (panelDraw_of_ne_ready h))

/-- Settles O23: the admission check is the last check before the bus phase, and InvalidState is no error of the bus phase. -/
theorem admissionRaisesInvalidState : Obligations.AdmissionRaisesInvalidState := by
  intro s hs
  refine ⟨fun hne => ?_, fun hne => ⟨?_, fun hv => ⟨fun black => ?_, fun b hb => ?_⟩,
    fun hv => ⟨fun black => ?_, fun b hb => ?_, fun b k hb hk => ?_⟩⟩⟩
  · exact raised_of_exec (op := .init) hs rfl ((State.whenIdle_of hs).trans (State.admitted_of_ne hne))
  · exact raised_of_exec (op := .sleep) hs rfl ((State.whenIdle_of hs).trans (State.admitted_of_ne hne))
  · refine raised_of_exec (op := .clear) hs rfl ?_
    rw [exec, execMonoClear, State.whenIdle_of hs, State.onVariant_of hv, panelClear_of_ne_ready hne]
  · refine raised_of_exec (op := .draw) hs rfl ?_
    rw [exec, execMonoDraw, State.whenIdle_of hs, State.onVariant_of hv, State.checkLen_of hb, panelDraw_of_ne_ready hne]
  · refine raised_of_exec (op := .clear) hs rfl ?_
    rw [exec, execBichroClear, State.whenIdle_of hs, State.onVariant_of hv, panelClear_of_ne_ready hne]
  · refine raised_of_exec (op := .draw) hs rfl ?_
    rw [exec, execBichroDraw, State.whenIdle_of hs, State.onVariant_of hv,
      drawPlanes_of_ne_ready hb (length_zeroPlane _) hne]
  · refine raised_of_exec (op := .draw2) hs rfl ?_
    rw [exec, execDraw2, State.whenIdle_of hs, State.onVariant_of hv, drawPlanes_of_ne_ready hb hk hne]

/-- Running lines returns an error only by raising it in the bus phase, with the events before it on the trace (R227). -/
theorem advance_of_returned_error {op : OpName} {ls : List Line} {s : State} {e : Err}
    (h : (advance op ls s).returns = s.returns ++ [.error e]) :
    busPhase e = true ∧ ∃ u : State, s.trace <+: u.trace ∧ advance op ls s = u.raiseIn op e := by
  obtain ⟨u, hu, ha | ⟨e', he', ha⟩ | ⟨_, _, -, -, -, ha⟩⟩ := advance_cases op ls s
  · rw [ha, State.finish_returns, hu.returns] at h
    simp at h
  · rw [ha, State.raiseIn_returns, hu.returns] at h
    obtain rfl : e' = e := by simpa using h
    exact ⟨he', u, hu.trace, ha⟩
  · rw [ha] at h
    have hret : u.returns = s.returns ++ [.error e] := h
    rw [hu.returns] at hret
    simp at hret

/-- An error that running lines returns in a panel operation leads to Fault (R138). -/
theorem advance_st_of_returned_error {op : OpName} {ls : List Line} {s : State} {e : Err} (hop : isPanelOp op = true)
    (h : (advance op ls s).returns = s.returns ++ [.error e]) :
    busPhase e = true ∧ (advance op ls s).st = .fault ∧ s.trace <+: (advance op ls s).trace := by
  obtain ⟨hb, u, htrace, ha⟩ := advance_of_returned_error h
  refine ⟨hb, ?_, ?_⟩
  · rw [ha, State.raiseIn_st, hop, hb]
    rfl
  · rwa [ha, State.raiseIn_trace]

/-- The panel operations run under the names R138 lists. -/
theorem Runs.isPanelOp {s : State} {i : Instr} {op : OpName} {ls : List Line} (h : Runs s i op ls) (hi : isPanelInstr i = true) :
    isPanelOp op = true := by
  cases h with
  | init | sleep | clear => rfl
  | draw _ _ hop => rcases hop with rfl | rfl <;> rfl
  | send ht => simp [not_isTransportInstr_of_isPanelInstr hi] at ht
  | transfer | sendCommand | sendData | reset | waitUntilIdle => cases hi

/-- Settles O24: an error is raised before the bus phase, where it leaves `ST` and the trace, or by running lines, where it is
one of the bus phase and leads to Fault. -/
theorem panelFailureLeadsToFault : Obligations.PanelFailureLeadsToFault := by
  refine ⟨fun i s t e hi h hret => ?_, fun op ls s t e hs hop h hret => ?_⟩
  · cases exec_startedAs h with
    | gave v h => simp [h] at hret
    | stored hp => simp [not_isPureInstr_of_isPanelInstr hi] at hp
    | raised op e' hb h =>
      subst h
      obtain rfl : e' = e := by simpa using hret
      exact ⟨fun he => absurd he (by simp [hb]), fun _ => ⟨by simp [hb], State.raiseIn_trace ..⟩⟩
    | ran op ls hr h =>
      subst h
      obtain ⟨hb, hfault⟩ := advance_st_of_returned_error (hr.isPanelOp hi) hret
      exact ⟨fun _ => hfault, fun he => absurd hb (by simp [he])⟩
  · have hstep := stepRunsDecodedInstruction.2.2.2 s op ls hs
    obtain rfl : advance op ls s = t := by simpa [hstep] using h
    exact (advance_st_of_returned_error hop hret).2

end Sys2Proof.Machine
end

section
/-! The wire commands read off the table INIT sends, each under its name (R85, R86, R132). -/

namespace Sys2Proof.Machine

/-- An opcode of the command table names its wire command where the table's opcodes are distinct (R86). -/
theorem decodeCommand_of_mem {c : Cfg} (hd : c.opcodesDistinct = true) {opcode : Byte} {f : List Byte → Instr}
    (h : (opcode, f) ∈ commandTable c) (payload : List Byte) : decodeCommand c opcode payload = some (f payload) := by
  rw [decodeCommand, find?_of_distinctBytes (rows := commandTable c) hd h, Option.map_some]

/-- The first frame, where there is one, is a command frame (R83). -/
def StartsWithCommand (frames : List Frame) : Prop := ∀ f ∈ frames.head?, f.dc = some Config.dcCommandLevel

/-- The command frame and the data frame of one wire command are read as that command, also where the data frame was left out,
since then no data frame follows (R84, R85). -/
theorem commandsOf_send {c : Cfg} {opcode : Byte} {payload : List Byte} {i : Instr} {frames : List Frame}
    (hd : decodeCommand c opcode payload = some i) (hframes : StartsWithCommand frames) :
    commandsOf c ({ dc := some 0#1, data := [opcode] } ::
      ((if elided c payload then [] else [{ dc := some 1#1, data := payload }]) ++ frames)) = .inr i :: commandsOf c frames := by
  by_cases he : elided c payload = true
  · obtain ⟨rfl, -⟩ := elided_iff.mp he
    cases frames with
    | nil => simp [he, commandsOf, Config.dcCommandLevel, hd]
    | cons g rest =>
      have hg : g.dc = some 0#1 := hframes g rfl
      simp [he, commandsOf, Config.dcCommandLevel, Config.dcDataLevel, hd, hg]
  · simp [he, commandsOf, Config.dcCommandLevel, Config.dcDataLevel, hd]

section
variable {c : Cfg} (hc : 0 < c.chunk) {es : List Event} (hes : ∀ dc, framesAt dc es = [])
include hc hes

/-- A table in front of events that open no frame begins with a command frame, if it sends any. -/
theorem startsWithCommand_tableTrace (table : List (Byte × List Byte)) (dc : Option Level) :
    StartsWithCommand (framesAt dc (tableTrace c table ++ es)) := by
  cases table with
  | nil => simp [StartsWithCommand, tableTrace, hes]
  | cons e rest =>
    rw [tableTrace, List.flatMap_cons, List.append_assoc, framesAt_sendTrace c hc]
    simp [StartsWithCommand, Config.dcCommandLevel]

/-- The entries of a table are read back in list order, each under the name its opcode has (R86, R132). -/
theorem commandsOf_tableTrace {table : List (Byte × List Byte)} {is : List Instr}
    (htable : table.map (fun e => decodeCommand c e.1 e.2) = is.map some) (dc : Option Level) :
    commandsOf c (framesAt dc (tableTrace c table ++ es)) = is.map .inr := by
  induction table generalizing is dc with
  | nil =>
    obtain rfl : is = [] := by simpa using htable.symm
    simp [tableTrace, hes, commandsOf]
  | cons e rest ih =>
    cases is with
    | nil => cases htable
    | cons i is =>
      obtain ⟨hd, hrest⟩ := List.cons.inj htable
      rw [tableTrace, List.flatMap_cons, List.append_assoc, framesAt_sendTrace c hc]
      exact (commandsOf_send hd (startsWithCommand_tableTrace hc hes rest _)).trans (congrArg (_ :: ·) (ih hrest _))

end

/-- What INIT puts on the wire is its table with one GET_STATUS as its last entry, and then a delay, a sample and a delay. -/
theorem tableTrace_append_idleTrace (c : Cfg) (table : List (Byte × List Byte)) :
    tableTrace c table ++ idleTrace c =
      tableTrace c (table ++ [(c.opGetStatus, c.plGetStatus)]) ++ [.dly 20, .busy c.busyIdleLevel, .dly 100] := by
  simp [tableTrace, idleTrace, pollTrace]

/-- Settles O35: the table with GET_STATUS as its last entry is read back entry by entry. -/
theorem initSendsItsTable : Obligations.InitSendsItsTable := by
  intro s is hs hc hst hd hf hi htable
  refine ⟨_, _, initCompletes s hs hc hst hf hi, rfl, ?_⟩
  have hstatus : decodeCommand s.cfg s.cfg.opGetStatus s.cfg.plGetStatus = some (.getStatus s.cfg.plGetStatus) :=
    decodeCommand_of_mem hd (by simp [commandTable]) _
  rw [tableTrace_append_idleTrace]
  exact commandsOf_tableTrace hc (fun _ => rfl) (by simp [htable, hstatus]) none

end Sys2Proof.Machine
end

section
/-! The frame that PACK_BICHRO makes of two planes: its length and where its bytes come from (R54, R193, R194). -/

namespace Sys2Proof.Machine

theorem length_packBichro {c : Cfg} {bs ks : List Byte} (h : bs.length = ks.length) :
    (packBichro c bs ks).length = 4 * bs.length := by
  induction bs generalizing ks with
  | nil => rfl
  | cons b bs ih =>
    cases ks with
    | nil => cases h
    | cons k ks =>
      rw [packBichro, List.length_append, List.length_map, List.length_range, ih (Nat.succ.inj h), List.length_cons]
      omega

/-- Every frame byte is a pair of pixels of two plane bytes (R194). -/
theorem exists_packPair_of_mem_packBichro {c : Cfg} {bs ks : List Byte} {x : Byte} (h : x ∈ packBichro c bs ks) :
    ∃ b ∈ bs, ∃ k ∈ ks, ∃ pair, packPair c b k pair = x := by
  induction bs generalizing ks with
  | nil => cases h
  | cons b bs ih =>
    cases ks with
    | nil => cases h
    | cons k ks =>
      rcases List.mem_append.mp h with h | h
      · obtain ⟨pair, -, rfl⟩ := List.mem_map.mp h
        exact ⟨b, List.mem_cons_self, k, List.mem_cons_self, pair, rfl⟩
      · obtain ⟨b', hb, k', hk, hpair⟩ := ih h
        exact ⟨b', List.mem_cons_of_mem _ hb, k', List.mem_cons_of_mem _ hk, hpair⟩

/-- A pixel with no colour is black or white (R193). -/
theorem code_of_no_color (c : Cfg) (b : Bool) : c.code b false = .black ∨ c.code b false = .white := by
  unfold Cfg.code
  by_cases h : b = c.blackInkBit <;> simp [h]

/-- Two pixels of a zero colour byte are each black or white (R89, R193). -/
theorem packPair_zero_mem (c : Cfg) (b : Byte) (pair : Nat) :
    packPair c b 0x00#8 pair ∈ [0x00#8, 0x03#8, 0x30#8, 0x33#8] := by
  simp only [packPair, BitVec.getLsbD_zero]
  rcases code_of_no_color c (b.getLsbD (7 - 2 * pair)) with hl | hl <;>
    rcases code_of_no_color c (b.getLsbD (6 - 2 * pair)) with hr | hr <;> rw [hl, hr] <;> decide

end Sys2Proof.Machine
end

section
/-! The Panel Driver Variants where every write is taken whole and the first sample is idle: a draw and a clear of either variant
send their buffers, refresh and stay in Ready (R134 to R136, R161 to R165). -/

namespace Sys2Proof.Machine

/-! ### A table sent and refreshed (R134 to R136) -/

/-- The body that draws and clears share: the buffers go out as a table, and the refresh ends the operation. -/
theorem State.launch_table_refresh {s : State} {table : List (Byte × List Byte)} (hc : 0 < s.cfg.chunk)
    (hf : s.AllFull (tableWrites s.cfg table + refreshWrites s.cfg)) (hi : s.IdleNext) (op : OpName) :
    s.launch op (tableLines s.cfg table ++ refreshLines s.cfg) =
      .next ((s.sentOn (tableTrace s.cfg table ++ refreshTrace s.cfg) (tableWrites s.cfg table + refreshWrites s.cfg) 1
        s.cfg.plGetStatus).returnedOk .unit) := by
  have htable := advance_table op s.cfg (refreshLines s.cfg) table s rfl hc (hf.mono (Nat.le_add_right _ _))
  have hrefresh := advance_refresh op s.cfg [] (s.tableSent s.cfg table) (State.tableSent_cfg _ _ _) hc
    (State.allFull_tableSent hf) ((State.busyAt_tableSent _ _ _ 0).trans hi)
  rw [List.append_nil, State.sentOn_tableSent] at hrefresh
  rw [State.launch_of hc]
  exact congrArg _ (htable.trans hrefresh)

/-- A draw is the table of its one buffer (R135). -/
theorem drawLines_eq_tableLines (c : Cfg) (bytes : List Byte) :
    drawLines c bytes = tableLines c [(c.opDataStart, bytes)] ++ refreshLines c := by
  simp [drawLines, tableLines]

theorem tableTrace_singleton (c : Cfg) (opcode : Byte) (payload : List Byte) :
    tableTrace c [(opcode, payload)] = sendTrace c opcode payload := List.append_nil _

theorem tableWrites_singleton (c : Cfg) (opcode : Byte) (payload : List Byte) :
    tableWrites c [(opcode, payload)] = sendWrites c payload := Nat.add_zero _

/-- PANEL_DRAW in Ready to its end (R135). -/
theorem panelDraw_completes {s : State} {bytes : List Byte} (hc : 0 < s.cfg.chunk) (hst : s.st = .ready)
    (hf : s.AllFull (sendWrites s.cfg bytes + refreshWrites s.cfg)) (hi : s.IdleNext) (op : OpName) :
    panelDraw op bytes s =
      .next ((s.sentOn (sendTrace s.cfg s.cfg.opDataStart bytes ++ refreshTrace s.cfg)
        (sendWrites s.cfg bytes + refreshWrites s.cfg) 1 s.cfg.plGetStatus).returnedOk .unit) := by
  rw [← tableWrites_singleton s.cfg s.cfg.opDataStart] at hf ⊢
  rw [panelDraw, State.admitted_of hst, drawLines_eq_tableLines, State.launch_table_refresh hc hf hi, tableTrace_singleton]

/-- PANEL_CLEAR in Ready to its end (R136). -/
theorem panelClear_completes {s : State} {plan : List (Byte × Byte)} {n : Nat} (hc : 0 < s.cfg.chunk) (hst : s.st = .ready)
    (hf : s.AllFull (tableWrites s.cfg (planTable plan n) + refreshWrites s.cfg)) (hi : s.IdleNext) :
    panelClear plan n s =
      .next ((s.sentOn (tableTrace s.cfg (planTable plan n) ++ refreshTrace s.cfg)
        (tableWrites s.cfg (planTable plan n) + refreshWrites s.cfg) 1 s.cfg.plGetStatus).returnedOk .unit) := by
  rw [panelClear, State.admitted_of hst, clearLines, planLines_eq_tableLines, State.launch_table_refresh hc hf hi]

/-- DRAW2's body on planes of PLANE_LEN bytes draws their packed frame (R163). -/
theorem drawPlanes_of_length {op : OpName} {b k : List Byte} {s : State} (hb : b.length = s.cfg.planeLen)
    (hk : k.length = s.cfg.planeLen) : drawPlanes op b k s = panelDraw op (packBichro s.cfg b k) s :=
  (State.checkLen_of (hb.trans hk.symm)).trans (State.checkLen_of hb)

/-! ### The draws and clears to their end -/

/-- Settles O28: past its variant and length checks MONO.DRAW is PANEL_DRAW of the buffer. -/
theorem monoDrawCompletes : Obligations.MonoDrawCompletes := by
  intro s b hs hc hv hst hlen hf hi
  rw [exec, execMonoDraw, State.whenIdle_of hs, State.onVariant_of hv, State.checkLen_of hlen,
    panelDraw_completes hc hst hf hi]

/-- Settles O29: past its checks DRAW2 is PANEL_DRAW of the packed planes, four frame bytes a plane byte. -/
theorem drawTwoPlanesCompletes : Obligations.DrawTwoPlanesCompletes := by
  intro s b k hs hc hv hst hb hk frame hf hi
  refine ⟨by rw [length_packBichro (hb.trans hk.symm), hb]; rfl, ?_⟩
  rw [exec, execDraw2, State.whenIdle_of hs, State.onVariant_of hv, drawPlanes_of_length hb hk,
    panelDraw_completes hc hst hf hi]

/-- Settles O30: BICHRO.DRAW draws the buffer with the zero plane, in which no pixel has colour. -/
theorem bichroDrawCompletes : Obligations.BichroDrawCompletes := by
  intro s b hs hc hv hst hb frame hf hi
  refine ⟨fun x hx => ?_, ?_⟩
  · obtain ⟨b', -, k, hk, pair, rfl⟩ := exists_packPair_of_mem_packBichro hx
    rw [List.eq_of_mem_replicate hk]
    exact packPair_zero_mem s.cfg b' pair
  · rw [exec, execBichroDraw, State.whenIdle_of hs, State.onVariant_of hv, drawPlanes_of_length hb (length_zeroPlane _)]
    exact panelDraw_completes hc hst hf hi .draw

/-- Settles O31: past its variant check MONO.CLEAR is PANEL_CLEAR of its plan. -/
theorem monoClearCompletes : Obligations.MonoClearCompletes := by
  intro s black hs hc hv hst table hf hi
  rw [exec, execMonoClear, State.whenIdle_of hs, State.onVariant_of hv]
  exact panelClear_completes hc hst hf hi

/-- Settles O32: past its variant check BICHRO.CLEAR is PANEL_CLEAR of a plan of one entry. -/
theorem bichroClearCompletes : Obligations.BichroClearCompletes := by
  intro s black hs hc hv hst buffer hf hi
  rw [← tableWrites_singleton s.cfg s.cfg.opDataStart] at hf ⊢
  rw [exec, execBichroClear, State.whenIdle_of hs, State.onVariant_of hv, ← tableTrace_singleton]
  exact panelClear_completes hc hst hf hi

end Sys2Proof.Machine
end

section
/-! The parts of a well-formed CFG, and the first buffers of CLEAR(true) and CLEAR(false) under one (R162, R165, R178). -/

namespace Sys2Proof

/-- The parts of a well-formed configuration. -/
theorem Cfg.wf_iff {c : Cfg} : c.wf = true ↔ 1 ≤ c.w ∧ 1 ≤ c.h ∧ 1 ≤ c.chunk ∧ c.pollBudgetOk = true ∧
    c.opcodesDistinct = true ∧ c.initSeqComplete = true ∧ c.initSeqNoImage = true ∧ c.monoClearOk = true ∧
    c.bichroClearOk = true := by
  simp [Cfg.wf, and_assoc]

/-- A plan of `MONO_CLEAR_SEQ` begins with an entry for the first data-start opcode, whose fill is 0x00 or 0xFF (R162). -/
theorem Cfg.eq_cons_of_monoPlanOk {c : Cfg} {plan : List (Byte × Byte)} (h : c.monoPlanOk plan = true) :
    ∃ fill rest, plan = (c.opDataStart, fill) :: rest ∧ (fill = 0x00#8 ∨ fill = 0xFF#8) := by
  obtain ⟨hfills, hops⟩ := Bool.and_eq_true_iff.mp h
  cases plan with
  | nil => simp at hops
  | cons e rest =>
    have hop : e.1 = c.opDataStart := by
      simp only [List.map_cons, Bool.or_eq_true, beq_iff_eq, List.cons.injEq] at hops
      exact hops.elim And.left And.left
    have hfill := List.all_eq_true.mp hfills e List.mem_cons_self
    exact ⟨e.2, rest, by rw [← hop], by simpa using hfill⟩

/-- The two plans of `MONO_CLEAR_SEQ` begin with opposite fills (R162, R178). -/
theorem Cfg.monoClearSeq_of_monoClearOk {c : Cfg} (h : c.monoClearOk = true) :
    ∃ (x y : Byte) (rest : Bool → List (Byte × Byte)), ((x = 0x00#8 ∧ y = 0xFF#8) ∨ (x = 0xFF#8 ∧ y = 0x00#8)) ∧
      ∀ black, c.monoClearSeq black = (c.opDataStart, if black then x else y) :: rest black := by
  simp only [Cfg.monoClearOk, Bool.and_eq_true] at h
  obtain ⟨⟨⟨hblack, hwhite⟩, -⟩, hfirst⟩ := h
  obtain ⟨x, xs, hx, hxv⟩ := Cfg.eq_cons_of_monoPlanOk hblack
  obtain ⟨y, ys, hy, hyv⟩ := Cfg.eq_cons_of_monoPlanOk hwhite
  have hne : x ≠ y := by simpa [hx, hy, firstFill] using hfirst
  refine ⟨x, y, fun black => if black then xs else ys, ?_, fun black => ?_⟩
  · rcases hxv with rfl | rfl <;> rcases hyv with rfl | rfl <;> simp_all
  · cases black
    · exact hy
    · exact hx

namespace Machine

/-- What a clear in Ready appends begins with the buffer of its plan's first entry (R136). -/
theorem panelClear_sends_first {s : State} {opcode fill : Byte} {rest : List (Byte × Byte)} {n m : Nat} (hc : 0 < s.cfg.chunk)
    (hst : s.st = .ready) (hm : tableWrites s.cfg (planTable ((opcode, fill) :: rest) n) + refreshWrites s.cfg ≤ m)
    (hf : s.AllFull m) (hi : s.IdleNext) :
    ∃ t es, panelClear ((opcode, fill) :: rest) n s = .next t ∧
      t.trace = s.trace ++ sendTrace s.cfg opcode (List.replicate n fill) ++ es := by
  have htable : tableTrace s.cfg (planTable ((opcode, fill) :: rest) n) =
      sendTrace s.cfg opcode (List.replicate n fill) ++ tableTrace s.cfg (planTable rest n) := List.flatMap_cons
  refine ⟨_, tableTrace s.cfg (planTable rest n) ++ refreshTrace s.cfg, panelClear_completes hc hst (hf.mono hm) hi, ?_⟩
  rw [htable, List.append_assoc, List.append_assoc]
  rfl

/-- Buffers of one length and different fills differ in every byte (R178). -/
theorem getElem?_replicate_ne {x y : Byte} (h : x ≠ y) {n i : Nat} (hi : i < n) :
    (List.replicate n x)[i]? ≠ (List.replicate n y)[i]? := by
  simpa [hi] using h

/-- Settles O34: on Mono the first fills are those of the two plans, which differ; on Bichro they are fixed. -/
theorem clearBuffersDiffer : Obligations.ClearBuffersDiffer := by
  intro c hwf
  obtain ⟨-, -, hc, -, -, -, -, hmono, -⟩ := Cfg.wf_iff.mp hwf
  cases hv : c.variant with
  | mono =>
    obtain ⟨x, y, rest, hxy, hplan⟩ := Cfg.monoClearSeq_of_monoClearOk hmono
    have hne : x ≠ y := by rcases hxy with ⟨rfl, rfl⟩ | ⟨rfl, rfl⟩ <;> decide
    refine ⟨(tableWrites c (planTable (c.monoClearSeq true) c.planeLen) + refreshWrites c) +
      (tableWrites c (planTable (c.monoClearSeq false) c.planeLen) + refreshWrites c), x, y,
      fun _ => hxy, nofun, fun i => getElem?_replicate_ne hne, ?_⟩
    rintro s black rfl hs hst hf hi
    rw [exec, execMonoClear, State.whenIdle_of hs, State.onVariant_of hv, hplan]
    refine panelClear_sends_first hc hst ?_ hf hi
    rw [← hplan]
    cases black <;> omega
  | bichro =>
    refine ⟨tableWrites c (planTable [(c.opDataStart, 0x00#8)] c.bichroClearLen) + refreshWrites c, 0x00#8, 0x33#8, nofun,
      fun _ => ⟨rfl, rfl⟩, fun i => getElem?_replicate_ne (by decide), ?_⟩
    rintro s black rfl hs hst hf hi
    rw [exec, execBichroClear, State.whenIdle_of hs, State.onVariant_of hv]
    refine panelClear_sends_first hc hst ?_ hf hi
    cases black <;> simp [planTable, tableWrites, sendWrites, writesOf, bichroFill]

end Machine
end Sys2Proof
end

section
/-! Which opcodes the panel operations and a wait that goes on leave out of the wire (R160, R172, R173). -/

namespace Sys2Proof

/-- The opcodes that the panel operations send besides those of tables, plans and images (R133, R134, R137). -/
def Cfg.controlOpcodes (c : Cfg) : List Byte := [c.opGetStatus, c.opRefresh, c.opPowerOff, c.opDeepSleep]

theorem Cfg.not_mem_controlOpcodes {c : Cfg} {x : Byte} :
    x ∉ c.controlOpcodes ↔ x ≠ c.opGetStatus ∧ x ≠ c.opRefresh ∧ x ≠ c.opPowerOff ∧ x ≠ c.opDeepSleep := by
  simp [Cfg.controlOpcodes]

/-- Distinct opcodes keep the two data-start opcodes apart from those and from each other (R86, R160). -/
theorem Cfg.dataStart_distinct {c : Cfg} (h : c.opcodesDistinct = true) :
    c.opDataStart ∉ c.controlOpcodes ∧ c.opDataStart2 ∉ c.controlOpcodes ∧ c.opDataStart2 ≠ c.opDataStart := by
  simp only [Cfg.opcodesDistinct, Cfg.opcodes, distinctBytes, Bool.and_eq_true, Bool.not_eq_true', List.contains_eq_mem,
    decide_eq_false_iff_not, List.mem_cons, not_or] at h
  simp only [Cfg.not_mem_controlOpcodes]
  tauto

theorem Cfg.ne_of_mem_initSeq {c : Cfg} (h : c.initSeqNoImage = true) :
    (∀ e ∈ c.initSeq, c.opDataStart ≠ e.1) ∧ ∀ e ∈ c.initSeq, c.opDataStart2 ≠ e.1 := by
  simp only [Cfg.initSeqNoImage, List.all_eq_true, Bool.and_eq_true, bne_iff_ne] at h
  exact ⟨fun e he => (h e he).1.symm, fun e he => (h e he).2.symm⟩

end Sys2Proof

namespace Sys2Proof.Machine

/-! ### Lines that leave an opcode out -/

/-- The lines offer `x` to the wire as no opcode, whatever DC level they find. -/
def LeavesOut (x : Byte) (ls : List Line) : Prop := ∀ dc, x ∉ lineOpcodes dc ls

/-- A wire command with another opcode, in front of further lines. -/
theorem LeavesOut.send {x opcode : Byte} {ls : List Line} (h : LeavesOut x ls) (hne : x ≠ opcode) (c : Cfg)
    (payload : List Byte) : LeavesOut x (sendLines c opcode payload ++ ls) := by
  intro dc hx
  obtain ⟨dc', hmem⟩ := lineOpcodes_send c opcode payload dc ls
  exact (hmem x hx).elim hne (h dc')

/-- A table with no entry of this opcode, in front of further lines. -/
theorem LeavesOut.table {x : Byte} {table : List (Byte × List Byte)} {ls : List Line} (h : LeavesOut x ls)
    (htable : ∀ e ∈ table, x ≠ e.1) (c : Cfg) : LeavesOut x (tableLines c table ++ ls) := by
  induction table with
  | nil => exact h
  | cons e rest ih =>
    obtain ⟨he, hrest⟩ := List.forall_mem_cons.mp htable
    rw [tableLines, List.append_assoc]
    exact (ih hrest).send he c e.2

section
variable {x : Byte} {c : Cfg} (hx : x ∉ c.controlOpcodes)
include hx

theorem LeavesOut.poll {ls : List Line} (h : LeavesOut x ls) : LeavesOut x (pollLines c ++ ls) := by
  obtain ⟨hstatus, -⟩ := Cfg.not_mem_controlOpcodes.mp hx
  have hsample : LeavesOut x ([.delay Config.tPoll, .sample] ++ ls) := h
  rw [pollLines, List.append_assoc]
  exact hsample.send hstatus c _

theorem LeavesOut.wait {ls : List Line} (h : LeavesOut x ls) : LeavesOut x (waitLines c ++ ls) := by
  have hsettle : LeavesOut x ([.delay Config.tSettle] ++ ls) := h
  rw [waitLines, List.cons_append, List.append_assoc]
  exact hsettle.poll hx

theorem leavesOut_waitLines : LeavesOut x (waitLines c) := by
  rw [← List.append_nil (waitLines c)]
  exact .wait hx fun _ => List.not_mem_nil

theorem leavesOut_refreshLines : LeavesOut x (refreshLines c) := by
  obtain ⟨-, hrefresh, -⟩ := Cfg.not_mem_controlOpcodes.mp hx
  have hwait : LeavesOut x (.delay Config.tRefresh :: waitLines c) := leavesOut_waitLines hx
  exact hwait.send hrefresh c _

theorem leavesOut_deepSleep : LeavesOut x (sendLines c c.opDeepSleep c.plDeepSleep ++ [.setSt .sleeping]) := by
  obtain ⟨-, -, -, hsleep⟩ := Cfg.not_mem_controlOpcodes.mp hx
  have hst : LeavesOut x [.setSt .sleeping] := fun _ => List.not_mem_nil
  exact hst.send hsleep c _

theorem leavesOut_sleepLines : LeavesOut x (sleepLines c) := by
  obtain ⟨-, -, hoff, -⟩ := Cfg.not_mem_controlOpcodes.mp hx
  exact ((leavesOut_deepSleep hx).wait hx).send hoff c _

theorem leavesOut_initLines (htable : ∀ e ∈ c.initSeq, x ≠ e.1) : LeavesOut x (initLines c) := by
  have hst : LeavesOut x [.setSt .ready] := fun _ => List.not_mem_nil
  exact (hst.wait hx).table htable c

theorem leavesOut_drawLines (hne : x ≠ c.opDataStart) (bytes : List Byte) : LeavesOut x (drawLines c bytes) :=
  (leavesOut_refreshLines hx).send hne c bytes

theorem leavesOut_clearLines {plan : List (Byte × Byte)} (hplan : ∀ e ∈ plan, x ≠ e.1) (n : Nat) :
    LeavesOut x (clearLines c plan n) := by
  rw [clearLines, planLines_eq_tableLines]
  exact (leavesOut_refreshLines hx).table (List.forall_mem_map.mpr hplan) c

/-- What an operation that waits has left at the head of its poll loop (R132, R133, R135 to R137). -/
theorem leavesOut_of_afterWait {op : OpName} {rest : List Line} (h : afterWait c op = some rest) :
    LeavesOut x (pollLines c ++ rest) := by
  refine .poll hx ?_
  cases op with
  | waitUntilIdle | init | draw | draw2 | clear =>
    cases h
    exact fun _ => List.not_mem_nil
  | sleep =>
    cases h
    exact leavesOut_deepSleep hx
  | transfer | sendCommand | sendData | send | reset => cases h
  | packMono | getPixel | setPixel | packBichro | pixelCode => cases h

end

/-! ### What was appended to the trace -/

/-- Whatever events lead from the trace of `s` to that of `t`, they offer `x` to the wire as no opcode. -/
def NotOffered (x : Byte) (s t : State) : Prop := ∀ es, t.trace = s.trace ++ es → x ∉ opcodesOffered none es

theorem NotOffered.of_trace_eq {x : Byte} {s t : State} (h : t.trace = s.trace) : NotOffered x s t := by
  intro es hes
  obtain rfl : es = [] := List.self_eq_append_right.mp (h.symm.trans hes)
  exact List.not_mem_nil

theorem LeavesOut.notOffered {x : Byte} {ls : List Line} (h : LeavesOut x ls) (op : OpName) (s : State) :
    NotOffered x s (advance op ls s) := by
  intro es hes hx
  obtain ⟨es', htrace, hmem⟩ := advance_opcodes op ls s
  obtain rfl : es = es' := List.append_cancel_left (hes.symm.trans htrace)
  exact h none (hmem none x hx)

/-- Whatever next state an outcome holds, `x` was not offered on the way to it from `s`. -/
def Spares (x : Byte) (s : State) (o : Out) : Prop := ∀ t, o = .next t → NotOffered x s t

section
variable {x : Byte} {s : State} {k : Out} {op : OpName}

theorem Spares.refused {r : Refusal} : Spares x s (.refused r) := fun _ h => nomatch h

theorem Spares.raise {e : Err} : Spares x s (.next (s.raiseIn op e)) := by
  rintro t ⟨⟩
  exact .of_trace_eq (State.raiseIn_trace ..)

theorem Spares.launch {ls : List Line} (h : LeavesOut x ls) : Spares x s (s.launch op ls) := by
  unfold State.launch
  split
  · exact .refused
  · rintro t ⟨⟩
    exact h.notOffered op s

theorem Spares.whenIdle (h : Spares x s k) : Spares x s (s.whenIdle k) := by
  unfold State.whenIdle
  split
  · exact h
  · exact .refused

theorem Spares.admitted {need : St} (h : Spares x s k) : Spares x s (s.admitted op need k) := by
  unfold State.admitted
  split
  · exact h
  · exact .raise

theorem Spares.checkLen {got wanted : Nat} (h : Spares x s k) : Spares x s (s.checkLen op got wanted k) := by
  unfold State.checkLen
  split
  · exact h
  · exact .raise

theorem Spares.onVariant {v : Variant} (h : Spares x s k) : Spares x s (s.onVariant v k) := by
  unfold State.onVariant
  split
  · exact h
  · exact .refused

theorem spares_init (hx : x ∉ s.cfg.controlOpcodes) (htable : ∀ e ∈ s.cfg.initSeq, x ≠ e.1) : Spares x s (exec .init s) :=
  .whenIdle (.admitted (.launch (leavesOut_initLines hx htable)))

/-- The panel operations but MONO.CLEAR, and a wait, send no other opcode than the first data-start opcode, those of INIT's table
and those of their own (R132, R133, R135 to R137). -/
theorem spares_panel {i : Instr} (hi : isPanelInstr i = true ∨ i = .waitUntilIdle) (hne : ∀ black, i ≠ .monoClear black)
    (hx : x ∉ s.cfg.controlOpcodes) (htable : ∀ e ∈ s.cfg.initSeq, x ≠ e.1) (himage : x ≠ s.cfg.opDataStart) :
    Spares x s (exec i s) := by
  have hdraw : ∀ {op bytes}, Spares x s (panelDraw op bytes s) := .admitted (.launch (leavesOut_drawLines hx himage _))
  cases i with
  | init => exact spares_init hx htable
  | waitUntilIdle => exact .whenIdle (.launch (leavesOut_waitLines hx))
  | sleep => exact .whenIdle (.admitted (.launch (leavesOut_sleepLines hx)))
  | monoDraw => exact .whenIdle (.onVariant (.checkLen hdraw))
  | draw2 | bichroDraw => exact .whenIdle (.onVariant (.checkLen (.checkLen hdraw)))
  | bichroClear black =>
    have hplan : ∀ e ∈ [(s.cfg.opDataStart, bichroFill black)], x ≠ e.1 := List.forall_mem_singleton.mpr himage
    exact .whenIdle (.onVariant (.admitted (.launch (leavesOut_clearLines hx hplan _))))
  | monoClear black => exact absurd rfl (hne black)
  | _ => simp [isPanelInstr] at hi

/-- A wait that goes on sends no other opcode than those of its poll loop and of what follows it (R27, R133). -/
theorem spares_step (hinv : SeqInv s) (hrun : s.seq ≠ .idle) (hx : x ∉ s.cfg.controlOpcodes) : Spares x s (step s) := by
  intro t h
  rcases step_cases h with ⟨op, ls, hs, rfl⟩ | ⟨hs, -⟩ | ⟨hs, -⟩
  · obtain ⟨-, rest, hrest, rfl⟩ := hinv.of_running hs
    exact (leavesOut_of_afterWait hx hrest).notOffered op s
  · exact absurd hs hrun
  · exact absurd hs hrun

end

/-- Settles O59: a well-formed CFG keeps the data-start opcodes apart from every opcode those operations send, but for the first
one in a draw or clear. -/
theorem imageCommandsStayOut : Obligations.ImageCommandsStayOut := by
  intro s t es hwf hes
  obtain ⟨-, -, -, -, hdistinct, -, htable, -⟩ := Cfg.wf_iff.mp hwf
  obtain ⟨hfirst, hsecond, hne⟩ := Cfg.dataStart_distinct hdistinct
  obtain ⟨htable1, htable2⟩ := Cfg.ne_of_mem_initSeq htable
  exact ⟨fun h => ⟨spares_init hfirst htable1 t h es hes, spares_init hsecond htable2 t h es hes⟩,
    fun i hi hclear h => spares_panel hi hclear hsecond htable2 hne t h es hes,
    fun hinv hrun h => ⟨spares_step hinv hrun hfirst t h es hes, spares_step hinv hrun hsecond t h es hes⟩⟩

end Sys2Proof.Machine
end

section
/-! The raster buffers and the frame by index: a list of blocks of one length, the raster that PACK_MONO makes, the frame that
PACK_BICHRO makes, and where the pixels inside have their index (R51, R52, R54, R190, R194). -/

namespace Sys2Proof

/-! ### A list of blocks of one length -/

/-- Entry `j` of block `i` stands at `j + n * i`. -/
theorem getElem?_flatMap_of_length {α β : Type} {f : α → List β} {n : Nat} (hf : ∀ a, (f a).length = n) {l : List α} {i j : Nat}
    {a : α} (hj : j < n) (ha : l[i]? = some a) : (l.flatMap f)[j + n * i]? = (f a)[j]? := by
  induction l generalizing i with
  | nil => cases ha
  | cons b l ih =>
    rw [List.flatMap_cons]
    cases i with
    | zero =>
      obtain rfl : b = a := Option.some.inj ha
      exact List.getElem?_append_left ((hf b).symm ▸ hj)
    | succ i =>
      have hidx : j + n * (i + 1) = n + (j + n * i) := by rw [Nat.mul_succ]; omega
      rw [hidx, List.getElem?_append_right (hf b ▸ Nat.le_add_right _ _), hf b, Nat.add_sub_cancel_left]
      exact ih ha

/-! ### Pixels inside: their index and their value (R52, R82, R190, R198) -/

/-- A pixel inside a Surface has its byte in a buffer of the Surface's length (R52, R198). -/
theorem Cfg.surfaceIndex_lt {c : Cfg} {x y : Nat} (hw : c.w % 8 = 0) (hx : x < c.w) (hy : y < c.h) :
    c.surfaceIndex x y < c.w * c.h / 8 := by
  rw [Nat.mul_div_right_comm (Nat.dvd_of_mod_eq_zero hw)]
  exact Nat.add_mul_lt_mul_of_lt_of_lt (by omega) hy

/-- A pixel function is defined on the whole domain where it has a value at each of its points (R82, R190). -/
theorem PixelMap.definedOn_iff {c : Cfg} {px : PixelMap} :
    px.definedOn c = true ↔ ∀ x y, x < 8 * c.stride → y < c.h → ∃ v, px.at? x y = some v := by
  simp only [PixelMap.definedOn, List.all_eq_true, List.mem_range, Option.isSome_iff_exists]
  exact ⟨fun h x y hx hy => h y hy x hx, fun h y hy x hx => h x y hx hy⟩

/-- Where it is defined, the pixel function's value is the bit that is packed (R190). -/
theorem PixelMap.at?_eq_some_bit {px : PixelMap} {x y : Nat} (h : ∃ v, px.at? x y = some v) :
    px.at? x y = some (px.bit x y) := by
  obtain ⟨v, hv⟩ := h
  rw [PixelMap.bit, hv]
  rfl

end Sys2Proof

namespace Sys2Proof.Machine

/-! ### The raster of PACK_MONO (R51, R190) -/

@[simp] theorem length_packRow (c : Cfg) (f : Nat → Bool) : (packRow c f).length = c.stride := by simp [packRow]

theorem length_packMono (c : Cfg) (f : Nat → Nat → Bool) : (packMono c f).length = c.planeLen := by
  simp [packMono, Cfg.planeLen, Nat.mul_comm]

/-- Byte `bx + STRIDE*y` of the raster packs the eight pixels from column `8*bx` of row `y` (R51, R190). -/
theorem getElem?_packMono {c : Cfg} {bx y : Nat} (hbx : bx < c.stride) (hy : y < c.h) (f : Nat → Nat → Bool) :
    (packMono c f)[bx + c.stride * y]? = some (packByte fun k => f (8 * bx + k) y) := by
  have hrow : (List.range c.h)[y]? = some y := List.getElem?_range hy
  rw [packMono, getElem?_flatMap_of_length (fun _ => length_packRow c _) hbx hrow, packRow, List.getElem?_map,
    List.getElem?_range hbx, Option.map_some]

theorem getD_packMono {c : Cfg} {bx y : Nat} (hbx : bx < c.stride) (hy : y < c.h) (f : Nat → Nat → Bool) :
    (packMono c f).getD (bx + c.stride * y) 0x00#8 = packByte fun k => f (8 * bx + k) y := by
  rw [List.getD_eq_getElem?_getD, getElem?_packMono hbx hy, Option.getD_some]

/-- GET_PIXEL reads bit `7 - x % 8` of the byte at the raster index (R51, R191). -/
theorem pixelAt_eq_getLsbD (c : Cfg) (bytes : List Byte) (x y : Nat) :
    pixelAt c bytes x y = (bytes.getD (x / 8 + c.stride * y) 0x00#8).getLsbD (7 - x % 8) :=
  pixelSet_eq_getLsbD _ x

/-- Every pixel packed is the pixel read back, padding columns included (R196). -/
theorem pixelAt_packMono {c : Cfg} {x y : Nat} (hx : x < 8 * c.stride) (hy : y < c.h) (f : Nat → Nat → Bool) :
    pixelAt c (packMono c f) x y = f x y := by
  rw [pixelAt_eq_getLsbD, getD_packMono (by omega) hy, getLsbD_packByte _ (by omega)]
  congr 1
  omega

/-! ### The frame of PACK_BICHRO (R54, R194) -/

/-- The frame is a block of four bytes for each pair of plane bytes (R54). -/
theorem packBichro_eq_flatMap (c : Cfg) (bs ks : List Byte) :
    packBichro c bs ks = (bs.zip ks).flatMap fun p => (List.range 4).map (packPair c p.1 p.2) := by
  induction bs generalizing ks with
  | nil => rfl
  | cons b bs ih =>
    cases ks with
    | nil => rfl
    | cons k ks => rw [packBichro, ih, List.zip_cons_cons, List.flatMap_cons]

/-- Frame byte `4*i + j` is pair `j` of plane bytes `i` (R54, R194). -/
theorem getElem?_packBichro {c : Cfg} {bs ks : List Byte} {p q : Byte} {i j : Nat} (hj : j < 4) (hp : bs[i]? = some p)
    (hq : ks[i]? = some q) : (packBichro c bs ks)[4 * i + j]? = some (packPair c p q j) := by
  have hpair : (bs.zip ks)[i]? = some (p, q) := List.getElem?_zip_eq_some.mpr ⟨hp, hq⟩
  rw [packBichro_eq_flatMap, Nat.add_comm, getElem?_flatMap_of_length (fun _ => by simp) hj hpair, List.getElem?_map,
    List.getElem?_range hj, Option.map_some]

end Sys2Proof.Machine
end

section
/-! The packer operations past their checks: what each answers for operands inside and outside (R190 to R192, R194, R225). -/

namespace Sys2Proof.Machine

variable {s : State}

theorem outside_eq_true {x y : Int} {w h : Nat} : outside x y w h = true ↔ x < 0 ∨ y < 0 ∨ (w : Int) ≤ x ∨ (h : Int) ≤ y := by
  simp [outside, or_assoc]

theorem exec_packMono_of_defined {px : PixelMap} (hs : s.seq = .idle) (hpx : px.definedOn s.cfg = true) :
    exec (.packMono px) s = s.give (.bytes (packMono s.cfg px.bit)) := by
  rw [exec, execPackMono, State.whenIdle_of hs, if_pos hpx]

theorem exec_packBichro_of_length {b k : Buf} (hs : s.seq = .idle) (hlen : (s.bytesOf b).length = (s.bytesOf k).length) :
    exec (.packBichro b k) s = s.give (.bytes (packBichro s.cfg (s.bytesOf b) (s.bytesOf k))) := by
  rw [exec, execPackBichro, State.whenIdle_of hs, State.checkLen_of hlen]

/-- GET_PIXEL on a buffer of PLANE_LEN bytes reads a pixel inside it and raises OutOfRange at any other (R191). -/
theorem exec_getPixel_of_length {b : Buf} (hs : s.seq = .idle) (hlen : (s.bytesOf b).length = s.cfg.planeLen) (x y : Int) :
    exec (.getPixel b x y) s = if outside x y (8 * s.cfg.stride) s.cfg.h then .next (s.raiseIn .getPixel (.outOfRange x y))
      else s.give (.bit (pixelAt s.cfg (s.bytesOf b) x.toNat y.toNat)) := by
  rw [exec, execGetPixel, State.whenIdle_of hs, State.checkLen_of hlen]

/-- SET_PIXEL on a Surface by its coordinates: a negative one is ignored, one too large raises OutOfRange (R192, R225). -/
theorem exec_setPixel_of_width (hs : s.seq = .idle) (hw : s.cfg.w % 8 = 0) (b : Buf) (x y : Int) (v : Bool) :
    exec (.setPixel b x y v) s = if x < 0 ∨ y < 0 then s.give (surfaceResult b (s.bytesOf b))
      else if outside x y s.cfg.w s.cfg.h then .next (s.raiseIn .setPixel (.outOfRange x y))
      else putSurfacePixel b (s.bytesOf b) (s.cfg.surfaceIndex x.toNat y.toNat) x.toNat v s := by
  rw [exec, execSetPixel, State.whenIdle_of hs, if_neg (not_not.mpr hw)]

/-- The pixel's byte is there, so it is stored and the operand's new content returned (R192). -/
theorem putSurfacePixel_of_getElem? {bytes : List Byte} {i : Nat} {old : Byte} (h : bytes[i]? = some old) (b : Buf) (x : Nat)
    (v : Bool) :
    putSurfacePixel b bytes i x v s = (s.putBytes b (storeByte bytes i (putPixel old x v))).give
      (surfaceResult b (storeByte bytes i (putPixel old x v))) := by
  simp only [putSurfacePixel, h]

/-- Storing a pixel's byte writes the pixel's bit and no other bit of any byte (R7, R192). -/
theorem getLsbD_getD_storeByte_putPixel {bytes : List Byte} {i : Nat} {old : Byte} (h : bytes[i]? = some old) (x : Nat) (v : Bool)
    (j : Nat) {k : Nat} (hk : k < 8) :
    ((storeByte bytes i (putPixel old x v)).getD j 0x00#8).getLsbD k =
      if j = i ∧ k = 7 - x % 8 then v else (bytes.getD j 0x00#8).getLsbD k := by
  obtain ⟨hi, -⟩ := List.getElem?_eq_some_iff.mp h
  rw [storeByte, List.getD_eq_getElem?_getD, List.getD_eq_getElem?_getD]
  by_cases hj : j = i
  · subst hj
    rw [List.getElem?_set_self hi, Option.getD_some, getLsbD_putPixel old x v hk, h, Option.getD_some]
    simp
  · rw [List.getElem?_set_ne (Ne.symm hj), if_neg fun hji => hj hji.1]

end Sys2Proof.Machine
end

section
/-! A pure operation started in two states with the same CFG and buffers: it answers the same in both, in one of four ways, none
of which reads more of the state (R195). -/

namespace Sys2Proof.Machine

/-- Two outcomes, one from `s` and one from `s'`, that are the same answer of the pure operation `i`: a refusal, a value given, an
error that is none of the bus phase, or one byte of the host buffer that SET_PIXEL names stored. -/
inductive SameAnswer (i : Instr) (s s' : State) (o o' : Out) : Prop
  | refused (r : Refusal) (h : o = .refused r) (h' : o' = .refused r)
  | gave (v : Value) (h : o = s.give v) (h' : o' = s'.give v)
  | raised (op : OpName) (e : Err) (hb : busPhase e = false) (h : o = .next (s.raiseIn op e)) (h' : o' = .next (s'.raiseIn op e))
  | stored (id : Nat) (x y : Int) (v : Bool) (new : Byte) (hi : i = .setPixel (.ref id) x y v)
    (h : o = (s.putBytes (.ref id)
      (storeByte (readBuffers s.bufs id) (s.cfg.surfaceIndex x.toNat y.toNat) new)).give .unit)
    (h' : o' = (s'.putBytes (.ref id)
      (storeByte (readBuffers s.bufs id) (s.cfg.surfaceIndex x.toNat y.toNat) new)).give .unit)

section
variable {i : Instr} {s s' : State} {k k' l l' : Out}

theorem SameAnswer.whenIdle (hs : s.seq = .idle) (hs' : s'.seq = .idle) (h : SameAnswer i s s' k k') :
    SameAnswer i s s' (s.whenIdle k) (s'.whenIdle k') := by
  rwa [State.whenIdle_of hs, State.whenIdle_of hs']

theorem SameAnswer.checkLen {op : OpName} {got wanted : Nat} (h : SameAnswer i s s' k k') :
    SameAnswer i s s' (s.checkLen op got wanted k) (s'.checkLen op got wanted k') := by
  by_cases hlen : got = wanted
  · rwa [State.checkLen_of hlen, State.checkLen_of hlen]
  · exact .raised op _ rfl (State.checkLen_of_ne hlen) (State.checkLen_of_ne hlen)

theorem SameAnswer.ite {p : Prop} [Decidable p] (h : SameAnswer i s s' k k') (hl : SameAnswer i s s' l l') :
    SameAnswer i s s' (if p then k else l) (if p then k' else l') := by
  by_cases hp : p
  · rwa [if_pos hp, if_pos hp]
  · rwa [if_neg hp, if_neg hp]

/-- The pixel's byte is stored in the host buffer, or in the list that is returned (R192; log 11). -/
theorem sameAnswer_putSurfacePixel (b : Buf) (x y : Int) (v : Bool) :
    let bytes := s.bytesOf b
    let n := s.cfg.surfaceIndex x.toNat y.toNat
    SameAnswer (.setPixel b x y v) s s' (putSurfacePixel b bytes n x.toNat v s) (putSurfacePixel b bytes n x.toNat v s') := by
  intro bytes n
  cases hold : bytes[n]? with
  | none => exact .refused .indexOutsideBuffer (by simp only [putSurfacePixel, hold]) (by simp only [putSurfacePixel, hold])
  | some old =>
    rw [putSurfacePixel_of_getElem? hold, putSurfacePixel_of_getElem? hold]
    cases b with
    | lit _ => exact .gave _ rfl rfl
    | ref id => exact .stored id x y v (putPixel old x.toNat v) rfl rfl rfl

/-- A pure operation reads its operands, CFG and the buffers alone (R195). -/
theorem exec_pure_sameAnswer (hi : isPureInstr i = true) (hs : s.seq = .idle) (hs' : s'.seq = .idle) (hcfg : s'.cfg = s.cfg)
    (hbufs : s'.bufs = s.bufs) : SameAnswer i s s' (exec i s) (exec i s') := by
  have hbytes := State.bytesOf_congr hbufs
  cases i with
  | packMono px =>
    refine .whenIdle hs hs' ?_
    rw [hcfg]
    exact .ite (.gave _ rfl rfl) (.refused _ rfl rfl)
  | getPixel b x y =>
    refine .whenIdle hs hs' ?_
    rw [hcfg, hbytes b]
    exact .checkLen (.ite (.raised _ _ rfl rfl rfl) (.gave _ rfl rfl))
  | setPixel b x y v =>
    refine .whenIdle hs hs' ?_
    rw [hcfg, hbytes b]
    exact .ite (.refused _ rfl rfl)
      (.ite (.gave _ rfl rfl) (.ite (.raised _ _ rfl rfl rfl) (sameAnswer_putSurfacePixel b x y v)))
  | packBichro b k =>
    refine .whenIdle hs hs' ?_
    rw [hcfg, hbytes b, hbytes k]
    exact .checkLen (.gave _ rfl rfl)
  | pixelBlack | pixelWhite | pixelColor | frameByte | monoByte => exact .whenIdle hs hs' (.gave _ rfl rfl)
  | _ => cases hi

end

/-- Returning to the host, with an operand's content in place, leaves the controller as it was (R195). -/
theorem SameController.finish_putBytes {s : State} (hs : s.seq = .idle) (b : Buf) (bytes : List Byte) (r : Ret) :
    SameController s ((s.putBytes b bytes).finish r) := by
  simp [SameController, hs]

/-- Returning to the host leaves the controller as it was (R195). -/
theorem SameController.finish {s : State} (hs : s.seq = .idle) (r : Ret) : SameController s (s.finish r) := by
  simp [SameController, hs]

end Sys2Proof.Machine
end

section
/-! The settled statements on the packer and the raster operations (43_bitplane_packer.md). -/

namespace Sys2Proof.Machine

/-- Settles O43: a pixel with colour has its code whatever the black plane holds, and without it the polarity decides. -/
theorem codePriority : Obligations.CodePriority := by
  intro c b
  refine ⟨rfl, ?_, ?_⟩
  · rw [Cfg.code, if_neg Bool.false_ne_true, if_pos rfl]
    rfl
  · rw [Cfg.code, if_neg Bool.false_ne_true, if_neg (Bool.not_ne_self _)]
    rfl

/-- Settles O37: a raster byte holds the eight pixels it was packed from. -/
theorem packMonoCompletes : Obligations.PackMonoCompletes := by
  intro s px hs hpx
  refine ⟨packMono s.cfg px.bit, exec_packMono_of_defined hs (PixelMap.definedOn_iff.mpr hpx), length_packMono _ _,
    fun bx y k hbx hy hk => ?_⟩
  have hcol : 7 - (7 - k) = k := by omega
  rw [PixelMap.at?_eq_some_bit (hpx _ y (by omega) hy), getD_packMono hbx hy, getLsbD_packByte _ (by omega), hcol]

/-- Settles O38: past its checks GET_PIXEL gives the bit under the pixel's mask. -/
theorem getPixelCompletes : Obligations.GetPixelCompletes := by
  intro s b x y hs hlen hx hy
  have hin : outside (x : Int) (y : Int) (8 * s.cfg.stride) s.cfg.h = false :=
    outside_eq_false.mpr ⟨by omega, by omega, by exact_mod_cast hx, by exact_mod_cast hy⟩
  rw [exec_getPixel_of_length hs hlen, hin, ← pixelAt_eq_getLsbD]
  rfl

/-- Settles O39: the pixel's byte lies in the buffer, and the byte stored for it differs in the pixel's bit alone. -/
theorem setPixelCompletes : Obligations.SetPixelCompletes := by
  intro s b x y v hs hw hx hy hlen
  have hin : outside (x : Int) (y : Int) s.cfg.w s.cfg.h = false :=
    outside_eq_false.mpr ⟨by omega, by omega, by exact_mod_cast hx, by exact_mod_cast hy⟩
  obtain ⟨old, hold⟩ : ∃ old, (s.bytesOf b)[s.cfg.surfaceIndex x y]? = some old :=
    ⟨_, List.getElem?_eq_getElem (hlen ▸ Cfg.surfaceIndex_lt hw hx hy)⟩
  refine ⟨storeByte (s.bytesOf b) (s.cfg.surfaceIndex x y) (putPixel old x v), List.length_set,
    fun i k hk => getLsbD_getD_storeByte_putPixel hold x v i hk, ?_⟩
  rw [exec_setPixel_of_width hs hw, if_neg (by omega), hin, if_neg Bool.false_ne_true, Int.toNat_natCast, Int.toNat_natCast,
    putSurfacePixel_of_getElem? hold]
  cases b <;> rfl

/-- Settles O40: the frame is four bytes for each pair of plane bytes, in plane order. -/
theorem packBichroCompletes : Obligations.PackBichroCompletes := by
  intro s b k hs hlen
  exact ⟨packBichro s.cfg (s.bytesOf b) (s.bytesOf k), exec_packBichro_of_length hs hlen, length_packBichro hlen,
    fun i j p q hj hp hq => getElem?_packBichro hj hp hq⟩

/-- Settles O42: GET_PIXEL checks all four edges, SET_PIXEL the negative coordinates first; OutOfRange is no error of the bus
phase. -/
theorem pixelCoordinatesOutside : Obligations.PixelCoordinatesOutside := by
  intro s b x y hs
  refine ⟨fun hlen hout => ?_, fun v hw hneg => ?_, fun v hw hx hy hout => ?_⟩
  · refine raised_of_exec (op := .getPixel) hs rfl ?_
    rw [exec_getPixel_of_length hs hlen, if_pos (outside_eq_true.mpr (by push_cast; exact hout))]
  · rw [exec_setPixel_of_width hs hw, if_pos hneg]
    cases b <;> rfl
  · refine raised_of_exec (op := .setPixel) hs rfl ?_
    rw [exec_setPixel_of_width hs hw, if_neg (by omega), if_pos (outside_eq_true.mpr (.inr (.inr hout)))]

/-- Settles O45: the byte read for a pixel is the one its column was packed into. -/
theorem packUnpackRoundTrip : Obligations.PackUnpackRoundTrip := by
  intro c f x y hx hy
  exact ⟨length_packMono c f, pixelAt_packMono hx hy f⟩

/-- Settles O46: every frame byte is a pair of pixels of a zero colour byte. -/
theorem zeroColourPlaneHasNoColour : Obligations.ZeroColourPlaneHasNoColour := by
  intro c b k hk x hx
  obtain ⟨b', -, k', hk', pair, rfl⟩ := exists_packPair_of_mem_packBichro hx
  rw [hk k' hk']
  exact packPair_zero_mem c b' pair

/-- Settles O47: each of the answers a pure operation has returns to the host and touches at most one byte of one buffer, and two
states with the same CFG and buffers get the same answer. -/
theorem pureOperationsArePure : Obligations.PureOperationsArePure := by
  refine ⟨fun i s t hi hinv h => ?_, fun i s s' t hi hs' hcfg hbufs h => ?_⟩
  · have hs : s.seq = .idle := idle_of_exec h
    have hsame := exec_pure_sameAnswer hi hs hs rfl rfl
    rw [h] at hsame
    cases hsame with
    | refused _ hr => cases hr
    | gave v hg =>
      cases hg
      exact ⟨.finish hs _, rfl, ⟨_, rfl⟩, fun _ _ _ => rfl⟩
    | raised op e hb hr =>
      cases hr
      refine ⟨.raiseIn hs hb op, rfl, ⟨_, State.raiseIn_returns s op e⟩, fun id n _ => ?_⟩
      rw [State.bufferByte?, State.raiseIn_bufs, State.bufferByte?]
    | stored id x y v new hset hst =>
      cases hst
      refine ⟨.finish_putBytes hs _ _ _, rfl, ⟨_, rfl⟩, fun id' n hn => State.bufferByte?_of_stored_ne hinv ?_ rfl⟩
      by_cases hid : id' = id
      · exact .inr (hn x y v (hid ▸ hset))
      · exact .inl hid
  · have hsame := exec_pure_sameAnswer hi (idle_of_exec h) hs' hcfg hbufs
    rw [h] at hsame
    cases hsame with
    | refused _ hr => cases hr
    | gave v hg hg' =>
      cases hg
      exact ⟨_, _, rfl, hg', rfl, hbufs⟩
    | raised op e _ hr hr' =>
      cases hr
      exact ⟨_, _, State.raiseIn_returns s op e, hr', State.raiseIn_returns s' op e, by simpa using hbufs⟩
    | stored id x y v new _ hst hst' =>
      cases hst
      exact ⟨_, _, rfl, hst', rfl, congrArg (writeBuffers · id _) hbufs⟩

end Sys2Proof.Machine
end

section
/-! The delays of the expected traces (R263, R267): what a wire command drives and writes takes no delay, so those of an operation
are those of its waits and its refresh (R133, R134). -/

namespace Sys2Proof.Machine

@[simp] theorem delaysOf_append (es fs : List Event) : delaysOf (es ++ fs) = delaysOf es ++ delaysOf fs := by
  induction es with
  | nil => rfl
  | cons e es ih => cases e <;> simp [delaysOf, ih]

@[simp] theorem delaysOf_writes (chunks : List (List Byte)) :
    delaysOf (chunks.map fun k => .wr k (.count k.length)) = [] := by
  induction chunks with
  | nil => rfl
  | cons k ks ih => exact ih

@[simp] theorem delaysOf_transferTrace (c : Cfg) (bytes : List Byte) : delaysOf (transferTrace c bytes) = [] := by
  simp [transferTrace, delaysOf]

@[simp] theorem delaysOf_dataTrace (c : Cfg) (bytes : List Byte) : delaysOf (dataTrace c bytes) = [] := by
  rw [dataTrace]
  split
  · rfl
  · exact delaysOf_transferTrace c bytes

@[simp] theorem delaysOf_sendTrace (c : Cfg) (opcode : Byte) (payload : List Byte) : delaysOf (sendTrace c opcode payload) = [] :=
  delaysOf_dataTrace c payload

@[simp] theorem delaysOf_tableTrace (c : Cfg) (table : List (Byte × List Byte)) : delaysOf (tableTrace c table) = [] := by
  induction table with
  | nil => rfl
  | cons e rest ih =>
    rw [tableTrace, List.flatMap_cons, delaysOf_append, delaysOf_sendTrace]
    exact ih

/-- One poll iteration and the settle delay: 20 and 100 ms (R133). -/
@[simp] theorem delaysOf_idleTrace (c : Cfg) : delaysOf (idleTrace c) = [20, 100] := by
  simp [idleTrace, pollTrace, delaysOf]

/-- The refresh delay in front of those of its wait (R134). -/
@[simp] theorem delaysOf_refreshTrace (c : Cfg) : delaysOf (refreshTrace c) = [100, 20, 100] := by
  simp [refreshTrace, delaysOf]

end Sys2Proof.Machine
end

section
/-! The starts that have no meaning, each by the check that refuses it (R52, R81, R96, R190, R198, R264, D5). -/

namespace Sys2Proof.Machine

/-! ### The checks of a start that fail -/

theorem State.whenIdle_of_ne {s : State} {k : Out} (h : s.seq ≠ .idle) : s.whenIdle k = .refused .reentrant := by
  cases hs : s.seq with
  | idle => exact absurd hs h
  | running op ls => simp only [State.whenIdle, hs]

theorem State.launch_of_zero {s : State} {op : OpName} {ls : List Line} (h : s.cfg.chunk = 0) :
    s.launch op ls = .refused .zeroChunk := if_pos h

theorem State.onVariant_of_ne {s : State} {v : Variant} {k : Out} (h : s.cfg.variant ≠ v) :
    s.onVariant v k = .refused .wrongVariant := if_neg h

/-- A row of the variant that is not configured (R81, R96). -/
theorem State.whenIdle_onVariant_of_ne {s : State} {v : Variant} {k : Out} (hs : s.seq = .idle) (hne : s.cfg.variant ≠ v) :
    s.whenIdle (s.onVariant v k) = .refused .wrongVariant :=
  (State.whenIdle_of hs).trans (State.onVariant_of_ne hne)

/-- Every instruction asks first whether SEQ is idle (R264). -/
theorem exec_eq_whenIdle (i : Instr) (s : State) : ∃ k, exec i s = s.whenIdle k := by
  cases i <;> exact ⟨_, rfl⟩

/-! ### The packer operations refused -/

/-- A gap anywhere in the domain, padding columns included, leaves the pixel function not defined on it (R190). -/
theorem not_definedOn_of_at?_eq_none {c : Cfg} {px : PixelMap} {x y : Nat} (hx : x < 8 * c.stride) (hy : y < c.h)
    (hgap : px.at? x y = none) : ¬ px.definedOn c = true := by
  intro hdef
  obtain ⟨v, hv⟩ := PixelMap.definedOn_iff.mp hdef x y hx hy
  simp [hgap] at hv

/-- The pixel's byte is not there (R198; log 12). -/
theorem putSurfacePixel_of_getElem?_none {s : State} {bytes : List Byte} {i : Nat} (h : bytes[i]? = none) (b : Buf) (x : Nat)
    (v : Bool) : putSurfacePixel b bytes i x v s = .refused .indexOutsideBuffer := by
  simp only [putSurfacePixel, h]

end Sys2Proof.Machine
end

section
/-! The settled statements on delays and on what is refused (70_reset_and_hazards.md). -/

namespace Sys2Proof.Machine

/-- Settles O36: each operation completes with its expected trace, whose delays are those of its waits. -/
theorem delaySums : Obligations.DelaySums := by
  intro s hs hc
  refine ⟨⟨_, _, resetCompletes.2 s hs, rfl, rfl⟩, fun b hf => ⟨?transfer, ?sendData⟩, fun op b hf => ⟨?sendCommand, ?send⟩,
    fun hi => ⟨fun hf => ?wait, fun hst hf => ?init, fun hst => ⟨fun hf => ?sleep,
      fun hv => ⟨fun b hb hf => ?monoDraw, fun black hf => ?monoClear⟩,
      fun hv => ⟨fun b k hb hk hf => ?draw2, fun b hb hf => ?bichroDraw, fun black hf => ?bichroClear⟩⟩⟩⟩
  case transfer => exact ⟨_, _, transferCompletes s b hs hc hf, rfl, delaysOf_transferTrace _ _⟩
  case sendData =>
    obtain ⟨chunks, -, -, -, hexec, -⟩ := sendDataCompletes s b hs hc hf
    by_cases helided : s.bytesOf b = [] ∧ s.cfg.elideEmptyData = true
    · rw [if_pos helided] at hexec
      exact ⟨_, [], hexec, (List.append_nil _).symm, rfl⟩
    · rw [if_neg helided] at hexec
      exact ⟨_, _, hexec, rfl, by simp [delaysOf]⟩
  case sendCommand =>
    have hf1 : s.AllFull 1 := hf.mono (Nat.le_add_right 1 _)
    exact ⟨_, _, (sendCommandCompletes s op hs hc hf1).1, rfl, rfl⟩
  case send => exact ⟨_, _, sendCompletes s op b hs hc hf, rfl, delaysOf_sendTrace _ _ _⟩
  case wait => exact ⟨_, _, waitCompletesWhenIdleAtOnce s hs hc hf hi, rfl, delaysOf_idleTrace _⟩
  case init => exact ⟨_, _, initCompletes s hs hc hst hf hi, rfl, by simp⟩
  case sleep => exact ⟨_, _, sleepCompletes s hs hc hst hf hi, rfl, by simp⟩
  case monoDraw => exact ⟨_, _, monoDrawCompletes s b hs hc hv hst hb hf hi, rfl, by simp⟩
  case monoClear => exact ⟨_, _, monoClearCompletes s black hs hc hv hst hf hi, rfl, by simp⟩
  case draw2 => exact ⟨_, _, (drawTwoPlanesCompletes s b k hs hc hv hst hb hk hf hi).2, rfl, by simp⟩
  case bichroDraw => exact ⟨_, _, (bichroDrawCompletes s b hs hc hv hst hb hf hi).2, rfl, by simp⟩
  case bichroClear => exact ⟨_, _, bichroClearCompletes s black hs hc hv hst hf hi, rfl, by simp⟩

/-- Settles O48: every start asks first whether SEQ is idle, and each other refusal is the check of its row that fails. -/
theorem refusedStarts : Obligations.RefusedStarts := by
  refine ⟨fun i s hs => ?_, fun s hs => ⟨fun hv b k => ?_, fun hv black => ?_, fun hv b black => ?_,
    fun px x y hx hy hgap => ?_, fun hw b x y v => ?_, fun hw b x y v hx hy hxw hyh hlen => ?_, fun hc b => ?_⟩⟩
  · obtain ⟨k, hk⟩ := exec_eq_whenIdle i s
    exact hk.trans (State.whenIdle_of_ne hs)
  · have hne : s.cfg.variant ≠ .bichro := by simp [hv]
    exact ⟨State.whenIdle_onVariant_of_ne hs hne, State.whenIdle_onVariant_of_ne hs hne⟩
  · have hne : s.cfg.variant ≠ .bichro := by simp [hv]
    exact State.whenIdle_onVariant_of_ne hs hne
  · have hne : s.cfg.variant ≠ .mono := by simp [hv]
    exact ⟨State.whenIdle_onVariant_of_ne hs hne, State.whenIdle_onVariant_of_ne hs hne⟩
  · exact (State.whenIdle_of hs).trans (if_neg (not_definedOn_of_at?_eq_none hx hy hgap))
  · exact (State.whenIdle_of hs).trans (if_pos hw)
  · have hin : outside x y s.cfg.w s.cfg.h = false := outside_eq_false.mpr ⟨hx, hy, hxw, hyh⟩
    rw [exec_setPixel_of_width hs hw, if_neg (by omega), hin, if_neg Bool.false_ne_true,
      putSurfacePixel_of_getElem?_none (List.getElem?_eq_none hlen)]
  · exact (State.whenIdle_of hs).trans (State.launch_of_zero hc)

end Sys2Proof.Machine
end
